-- ==== Sys2Proof/Word.lean ====
section
/-! DEFINITION. The block's words: a byte (R9, `CHAR_W` = 8), a line of bytes (R9, R40), and the closed
set of classes a malformed line falls into (R47), which `Instr.malformed` carries. -/

namespace Sys2Proof

/-- A character of a line, or a symbol of the buffer: a byte 0..255 (R9, R8 `CHAR_W` = 8). -/
abbrev Byte := BitVec 8

/-- An input line: a finite sequence of bytes, terminator already stripped, of any length (R9, R40). -/
abbrev Line := List Byte

/-- The class `sub` of a malformed line (R47). -/
inductive MalformedClass where
  /-- 1 UNRECOGNIZED: the line has neither prefix and is not `END`. -/
  | unrecognized
  /-- 2 MISSING_PAYLOAD: the line is `L,` or `M,` exactly. -/
  | missingPayload
  /-- 3 BAD_DATA_PAYLOAD: an `L,` payload of two or more bytes that is not `Space`. -/
  | badDataPayload
  /-- 4 NON_NUMERIC: a nonempty `M,` payload that is no numeral. -/
  | nonNumeric
  deriving DecidableEq, Repr, Inhabited

end Sys2Proof
end

