-- ==== Sys2Proof/Config.lean ====
section
/-! DEFINITION. What is fixed outside the block or left open by the spec: the parameters of R8, the legal
values of `EMPTY_POLL_LIMIT` (R19), the responses a transport can give (R20), and the one free value, the
responses the environment has not fixed (U8). -/

namespace Sys2Proof

/-- `N_ALPHA`, the alphabet size and modulus of the shift (R8). -/
abbrev Config.nAlpha : Nat := 26

/-- `CHAR_W`, bits per character and per symbol (R8, D2). -/
abbrev Config.charW : Nat := 8

/-- `SHIFT_W`, bits of the `shift` register as a port shows it (R8, D3, R95). -/
abbrev Config.shiftW : Nat := 5

/-- A legal finite `EMPTY_POLL_LIMIT`: "`N = 0` is not a legal configuration (`N >= 1`)" (R78, U11).
DESIGN CHOICE (log 2, safe): the bound is carried by the value, so an illegal one cannot be built;
`Machine.State.configure` refuses it by name. -/
structure PollLimit where
  /-- the number `N` of consecutive empty polls that stops the machine -/
  n : Nat
  /-- `N >= 1` -/
  pos : 1 ≤ n
  deriving DecidableEq, Repr

/-- One transport response, the input of a step (R20, C4). -/
inductive Resp where
  /-- a complete line, terminators stripped; it may be empty and hold any bytes -/
  | line (l : Line)
  /-- no complete line is currently available -/
  | noData
  /-- end-of-stream: no line will ever come again -/
  | exhausted
  /-- an unrecoverable read fault -/
  | failure
  deriving DecidableEq, Repr, Inhabited

/-- FREE VALUE (U8 "a free input the model quantifies over"): the response the transport gives at the
`k`-th request for which the environment placed none. It has no body, so nothing can be proved of its value:
a claim about a step that takes it holds for every response (DESIGN CHOICE, log 3, safe). -/
opaque Config.freeResponse : Nat → Resp

end Sys2Proof
end

