-- ==== Sys2Proof/Syntax.lean ====
section
/-! DEFINITION. The frames, one constructor per row of spec/opcode_table.json (R42, R53). In this block the
instruction is the frame and the instruction word is the line (30_encoding.md). -/

namespace Sys2Proof

/-- A decoded line. The first four constructors are the closed set of frame kinds (R42). The fifth is the
default class of R47, a line that is no frame. -/
inductive Instr where
  /-- DATA, `L,<c>`: carries the symbol `c`, any byte (R43, R68). -/
  | data (c : Byte)
  /-- DATA.SPACE, `L,Space`: carries the space symbol (R44, R69). -/
  | dataSpace
  /-- REMAP, `M,<signed-int>`: carries the integer `delta`, of any magnitude (R45, R48, R70). -/
  | remap (delta : Int)
  /-- END, `END`: terminates the stream (R46, R71). -/
  | endFrame
  /-- MALFORMED: any other line, with the class `sub` of R47 (R72). -/
  | malformed (sub : MalformedClass)
  deriving DecidableEq, Repr, Inhabited

end Sys2Proof
end

