-- ==== Sys2Proof/Machine/State.lean ====
section
/-! DEFINITION. The machine's state as plain data: the architectural tuple of R10, the byte-serial parser's
registers (R87), the configuration (R19), and the input and output the step reads and writes (R20, R21);
the reset state (R23); the reasons a step can stop. -/

namespace Sys2Proof.Machine

/-- The DecoderLoop's state (R14). -/
inductive Run where
  | running
  | stopped
  deriving DecidableEq, Repr, Inhabited

/-- Why the loop stopped (R15). -/
inductive Cause where
  /-- NONE = 0: still RUNNING -/
  | none
  /-- END = 1: a TerminateFrame -/
  | endFrame
  /-- EXHAUSTED = 2: the transport signalled end-of-stream -/
  | exhausted
  /-- IDLE = 3: the empty-poll limit was reached -/
  | idle
  /-- FAILURE = 4: the transport signalled an unrecoverable fault -/
  | failure
  deriving DecidableEq, Repr, Inhabited

/-- The closed error taxonomy (R96). -/
inductive ErrorCode where
  /-- code 1, recoverable (R97) -/
  | malformedFrame
  /-- code 2, "not an error", a stop cause (R98) -/
  | transportExhausted
  /-- code 3, fatal, a stop cause and the event `Fail` (R99) -/
  | transportFailure
  deriving DecidableEq, Repr, Inhabited

/-- An output event (R21). -/
inductive Event where
  /-- `Err(code, sub)`: an error report -/
  | err (code : ErrorCode) (sub : MalformedClass)
  /-- `Finished(seq)`: the rendered buffer, handed out when the machine stops -/
  | finished (seq : List Byte)
  /-- `Fail`: the transport failure surfaced to the caller -/
  | fail
  deriving DecidableEq, Repr, Inhabited

/-- The interpreter's result (R67, R73): a return value, not state. -/
inductive ContinueSignal where
  | goOn
  | stop
  deriving DecidableEq, Repr, Inhabited

/-- The buffer space: cells (address, byte). Canonical form: addresses 0, 1, 2, … in order (`Memory.wf`). An
address not listed has no value (log 7, safe). -/
abbrev Memory := List Host.Cell

/-- The parse states of the byte-serial parser (R87). -/
inductive ParseState where
  | start
  | l
  | lc
  | l1
  | sp2
  | sp3
  | sp4
  | space
  | m
  | mc
  | mneg
  | mnum
  | e
  | en
  | end3
  | badU
  | badD
  | badN
  deriving DecidableEq, Repr, Inhabited

/-- The byte-serial parser's registers between the characters of one line (R87). -/
structure Parser where
  /-- parse state -/
  ps : ParseState
  /-- the first payload character of an `L,` line -/
  c : Byte
  /-- a `-` sign was seen -/
  neg : Bool
  /-- the magnitude read so far, modulo 26 -/
  acc : Fin 26
  deriving DecidableEq, Repr, Inhabited

/-- The whole state. -/
structure State where
  /-- the rotor's shift, always 0..25 (R11, U10; log 11) -/
  shift : Fin 26
  /-- the assembly buffer (R13, R25) -/
  buf : Memory
  /-- RUNNING or STOPPED (R14) -/
  run : Run
  /-- the stop cause (R15) -/
  cause : Cause
  /-- consecutive empty polls (R16) -/
  idle : Nat
  /-- the byte-serial parser's registers (R87); the line-level step does not touch them (log 6) -/
  parser : Parser
  /-- the configuration `EMPTY_POLL_LIMIT` (R19); no step writes it (log 1) -/
  emptyPollLimit : Option PollLimit
  /-- the MODEL's input: responses the transport will give next, in order (R20; log 3) -/
  input : List Resp
  /-- the MODEL's counter: responses taken from `Config.freeResponse` (U8; log 3) -/
  freeTaken : Nat
  /-- the MODEL's output: the events of this run, oldest first (R21, R84; log 4) -/
  out : List Event
  deriving DecidableEq, Repr

/-- Why the machine has no next state. -/
inductive Fault where
  /-- Raised by `step` (and `serialStep`) in a STOPPED state: "the machine has no step" (R81), `stuck` by
  design and the normal end of a run, not an error (U12; log 5). Safe: nothing goes on. -/
  | stopped
  deriving DecidableEq, Repr, Inhabited

/-- Why the model gives no meaning. -/
inductive Refusal where
  /-- Raised only by an arm of `exec` that has no meaning yet. Safe. No arm raises it. -/
  | notModelled (mnemonic : String)
  /-- Raised by `bufRead i` with `i >= len(buf)`: it reads a location nothing has written (R27, D25, U9). Safe. -/
  | bufReadPastEnd
  /-- Raised by `State.configure`, and by `cycle` under `rst`, on `EMPTY_POLL_LIMIT = some 0`, not a legal
  configuration (R78, U11). Safe. -/
  | illegalPollLimit
  /-- Raised by `stepWithCapacity` when a DATA frame meets a full finite buffer (R34, D10, U3). Safe. -/
  | bufferFull
  /-- Raised by `Ports.cycle` on `in_kind` 5, 6 or 7, to which R95 gives no meaning. Safe. -/
  | reservedInputKind
  deriving DecidableEq, Repr, Inhabited

/-- The parser at reset: `ps = START` (R23, R94); its other registers are don't-care, zero here
(DESIGN CHOICE, log 6, unsafe). -/
def Parser.reset : Parser := { ps := .start, c := 0, neg := false, acc := 0 }

/-- The state right after reset under a configuration (R23, R112, R116), with no response placed and no event
emitted. -/
def State.resetWith (limit : Option PollLimit) : State :=
  { shift := 0
    buf := []
    run := .running
    cause := .none
    idle := 0
    parser := Parser.reset
    emptyPollLimit := limit
    input := []
    freeTaken := 0
    out := [] }

/-- The state right after reset. `EMPTY_POLL_LIMIT` is `none` in it (DESIGN CHOICE, log 1, unsafe: R19 leaves
it OPEN; claims quantify over states, hence over every limit). -/
def State.reset : State := State.resetWith none

end Sys2Proof.Machine
end

