-- ==== Sys2Proof/Machine/Flags.lean ====
section
/-! DEFINITION. The block has no flags, condition codes or sticky bits (R17). What a frame hands back
instead is its ContinueSignal (R73), defined here for every frame, beside the numeric codes under which run,
cause, error and malformed class are observed (R14, R15, R47, R96). -/

namespace Sys2Proof.Machine

/-- The ContinueSignal: stop for END, continue for every other line, malformed lines included (R73). -/
def continueSignal : Instr → ContinueSignal
  | .data _ => .goOn
  | .dataSpace => .goOn
  | .remap _ => .goOn
  | .endFrame => .stop
  | .malformed _ => .goOn

/-- RUNNING = 1, STOPPED = 0 (R14, D15). -/
def Run.code : Run → BitVec 1
  | .running => 1
  | .stopped => 0

/-- The 3-bit cause code (R15, D15). -/
def Cause.code : Cause → BitVec 3
  | .none => 0
  | .endFrame => 1
  | .exhausted => 2
  | .idle => 3
  | .failure => 4

/-- The error code (R96, D16). -/
def ErrorCode.code : ErrorCode → Nat
  | .malformedFrame => 1
  | .transportExhausted => 2
  | .transportFailure => 3

/-- The `sub` number of a malformed class, 3 bits on the port `err_sub` (R47, R95, D16). -/
def subCode : MalformedClass → BitVec 3
  | .unrecognized => 1
  | .missingPayload => 2
  | .badDataPayload => 3
  | .nonNumeric => 4

end Sys2Proof.Machine
end

