-- ==== Sys2Proof/WellFormed.lean ====
section
/-! DEFINITION. Which decoded lines are frames. The operands need no check: a DATA symbol may be any byte
(R43, D26) and a REMAP delta any integer (R48, D8). The one check is that the line is of the closed set of
frame kinds (R42): a malformed line "is no frame" (00_scope.md glossary). -/

namespace Sys2Proof

/-- The decoded line is one of the four frames of R42. -/
def Instr.wellFormed : Instr → Bool
  | .data _ => true
  | .dataSpace => true
  | .remap _ => true
  | .endFrame => true
  | .malformed _ => false

end Sys2Proof
end

