-- ==== Sys2Proof/Decode.lean ====
section
/-! DEFINITION. The decoder `decode` (R51's `parse`, total on every line), written from R43 to R48; after it
the encoder `encode`, the opcode table's own match and mask rows (R53), and the host's table words.
The ASCII code values are spec/00_scope.md R9's table (marked there as general knowledge, G1: UNVERIFIED,
log 13, unsafe). -/

namespace Sys2Proof

/-! ### Literals (R9, R43 to R46) -/

/-- `"L,"` (R43). -/
abbrev prefixData : Line := [0x4C#8, 0x2C#8]

/-- `"M,"` (R45). -/
abbrev prefixRemap : Line := [0x4D#8, 0x2C#8]

/-- `"Space"`, case-sensitive (R44). -/
abbrev tokenSpace : Line := [0x53#8, 0x70#8, 0x61#8, 0x63#8, 0x65#8]

/-- `"END"` (R46). -/
abbrev tokenEnd : Line := [0x45#8, 0x4E#8, 0x44#8]

/-- `'-'` (R45). -/
abbrev minusSign : Byte := 0x2D#8

/-- The space character 0x20, the symbol of DATA.SPACE (R44, R49). -/
abbrev spaceSymbol : Byte := 0x20#8

/-! ### Numerals (R45, R48) -/

/-- A digit byte, `'0'`..`'9'` = 0x30..0x39 (R45, R90). -/
def isDigit (b : Byte) : Bool := 0x30 ≤ b.toNat && b.toNat ≤ 0x39

/-- The value `b - 0x30` of a digit byte (R48). -/
def digitValue (b : Byte) : Nat := b.toNat - 0x30

/-- The magnitude of a digit sequence, most significant digit first, exact (R48, D28). -/
def magnitude (d : List Byte) : Nat := d.foldl (fun m b => 10 * m + digitValue b) 0

/-- `delta = if neg then -m else m`, over Int (R48). -/
def assembleDelta (neg : Bool) (d : List Byte) : Int :=
  if neg then -(magnitude d : Int) else (magnitude d : Int)

/-- The payload is a numeral `-?[0-9]+`, the whole of it (R45, D7). -/
def isNumeral (p : List Byte) : Bool :=
  let d := if p.head? = some minusSign then p.tail else p
  !d.isEmpty && d.all isDigit

/-! ### The decoder (R51) -/

/-- The payload of a line that starts `L,`: `Space`, one byte, nothing, or too long (R43, R44, R47, C3). -/
def decodeDataPayload (p : List Byte) : Instr :=
  if p = tokenSpace then .dataSpace
  else
    match p with
    | [] => .malformed .missingPayload
    | [c] => .data c
    | _ :: _ :: _ => .malformed .badDataPayload

/-- The payload of a line that starts `M,`: an optional `-`, then one or more digits, else malformed
(R45, R47, R48). -/
def decodeRemapPayload (p : List Byte) : Instr :=
  match p with
  | [] => .malformed .missingPayload
  | b :: rest =>
    let neg : Bool := b = minusSign
    let d := if neg then rest else p
    if d.isEmpty || !d.all isDigit then .malformed .nonNumeric
    else .remap (assembleDelta neg d)

/-- `parse(l)` of R51: total on every line, the tests in the rule's order. -/
def decode (l : Line) : Instr :=
  if l.take 2 = prefixData then decodeDataPayload (l.drop 2)
  else if l.take 2 = prefixRemap then decodeRemapPayload (l.drop 2)
  else if l = tokenEnd then .endFrame
  else .malformed .unrecognized

/-! ### The encoder -/

/-- The digit byte of a value 0..9 (R48). -/
def digitByte (k : Nat) : Byte := BitVec.ofNat 8 (0x30 + k)

/-- The decimal digits of `n` put before `acc`, least significant digit last; `fuel` bounds their number. -/
def digitsBefore : Nat → Nat → List Byte → List Byte
  | 0, _, acc => acc
  | fuel + 1, n, acc =>
    if n < 10 then digitByte n :: acc
    else digitsBefore fuel (n / 10) (digitByte (n % 10) :: acc)

/-- The decimal numeral of `n`, most significant digit first, no leading zero (R45, R48). -/
def decimalDigits (n : Nat) : List Byte := digitsBefore (n.log2 + 1) n []

/-- The numeral of `delta`: a `-` when it is negative, then its magnitude (R45). -/
def numeral (delta : Int) : List Byte :=
  if delta < 0 then minusSign :: decimalDigits delta.natAbs else decimalDigits delta.natAbs

/-- One line of each malformed class, taken from R47's examples: `X,?`, `L,`, `L,AB`, `M,-`
(DESIGN CHOICE, log 10, safe: a class has many lines and none of them is the spec's own). -/
def malformedExample : MalformedClass → Line
  | .unrecognized => [0x58#8, 0x2C#8, 0x3F#8]
  | .missingPayload => [0x4C#8, 0x2C#8]
  | .badDataPayload => [0x4C#8, 0x2C#8, 0x41#8, 0x42#8]
  | .nonNumeric => [0x4D#8, 0x2C#8, 0x2D#8]

/-- A line that spells the frame (R43 to R46). A REMAP has many spellings (leading zeros, `-0`); this is
the one without leading zeros. -/
def encode : Instr → Line
  | .data c => prefixData ++ [c]
  | .dataSpace => prefixData ++ tokenSpace
  | .remap delta => prefixRemap ++ numeral delta
  | .endFrame => tokenEnd
  | .malformed k => malformedExample k

/-! ### The opcode table's numeric form (R53) -/

/-- The `length` key of a row. -/
inductive LengthRule where
  | exactly (n : Nat)
  | atLeast (n : Nat)
  | any
  deriving DecidableEq, Repr

/-- The `tail` key of a row: no constraint, the numeral `-?[0-9]+`, or "matches only when no other row does". -/
inductive TailRule where
  | unconstrained
  | numeral
  | otherwise
  deriving DecidableEq, Repr

/-- A row of R53's table. -/
structure OpcodeRow where
  mnemonic : String
  width : Nat
  matchBits : Nat
  maskBits : Nat
  lengthRule : LengthRule
  tailRule : TailRule
  deriving DecidableEq, Repr

/-- The four rows with a pattern of their own, transcribed from R53. -/
def frameRows : List OpcodeRow :=
  [⟨"DATA", 3, 0x4C2C00, 0xFFFF00, .exactly 3, .unconstrained⟩,
   ⟨"DATA.SPACE", 7, 0x4C2C5370616365, 0xFFFFFFFFFFFFFF, .exactly 7, .unconstrained⟩,
   ⟨"REMAP", 2, 0x4D2C, 0xFFFF, .atLeast 3, .numeral⟩,
   ⟨"END", 3, 0x454E44, 0xFFFFFF, .exactly 3, .unconstrained⟩]

/-- The default row, transcribed from R53. -/
def defaultRow : OpcodeRow := ⟨"MALFORMED", 0, 0x0, 0x0, .any, .otherwise⟩

/-- The length satisfies the row's constraint. -/
def LengthRule.holds : LengthRule → Nat → Bool
  | .exactly n, len => len == n
  | .atLeast n, len => n ≤ len
  | .any, _ => true

/-- The leading `w` bytes as one number, `l[0]` most significant (R53). -/
def leadingNumber (w : Nat) (l : Line) : Nat :=
  (l.take w).foldl (fun n b => 256 * n + b.toNat) 0

/-- The row's own conditions on a line: length, match under mask, tail (R53). -/
def OpcodeRow.fits (r : OpcodeRow) (l : Line) : Bool :=
  r.lengthRule.holds l.length
    && (leadingNumber r.width l &&& r.maskBits) == r.matchBits
    && (match r.tailRule with
        | .unconstrained => true
        | .numeral => isNumeral (l.drop r.width)
        | .otherwise => true)

/-- The row a line matches: the frame row that fits it, else the default row (R53). -/
def rowOfLine (l : Line) : OpcodeRow :=
  match frameRows.find? (fun r => r.fits l) with
  | some r => r
  | none => defaultRow

/-- The mnemonic of a decoded line, as spec/opcode_table.json spells it. -/
def Instr.mnemonic : Instr → String
  | .data _ => "DATA"
  | .dataSpace => "DATA.SPACE"
  | .remap _ => "REMAP"
  | .endFrame => "END"
  | .malformed _ => "MALFORMED"

/-! ### The host's table words -/

/-- The line a table word of `nbits` bits stands for. The table numbers the leading bytes of a line as one
number with `l[0]` most significant (R53), so the bytes come out most significant first. The REMAP row gives
its operand no bits: its two bytes `M,` are completed with the operand of zero, the digit `0`
(DESIGN CHOICE, log 9, safe: no step uses this function). -/
def lineOfTableWord (nbits w : Nat) : Line :=
  let n := nbits / 8
  let l : Line := (List.range n).map (fun k => BitVec.ofNat 8 (w >>> (8 * (n - 1 - k))))
  if l = prefixRemap then l ++ [digitByte 0] else l

/-- The instruction the decoder reads from a table word; the decoder refuses no line (R51). -/
def decodeTableWord (nbits w : Nat) : Option Instr := some (decode (lineOfTableWord nbits w))

end Sys2Proof
end

