-- ==== Sys2Proof/Machine/Operands.lean ====
section
/-! DEFINITION. How a frame's operand enters the rotor: the alphabetic position of a symbol (R59), the residue
of a delta (R9, R57, R124). -/

namespace Sys2Proof.Machine

/-- `'A'`..`'Z'` = 0x41..0x5A (R58). -/
def isUpper (b : Byte) : Bool := 0x41 ≤ b.toNat && b.toNat ≤ 0x5A

/-- `'a'`..`'z'` = 0x61..0x7A (R58). -/
def isLower (b : Byte) : Bool := 0x61 ≤ b.toNat && b.toNat ≤ 0x7A

/-- `alphabetic_position`: `b - 0x41` for an upper-case letter, `b - 0x61` for a lower-case one; "undefined for
a non-letter and never applied to one" (R59). -/
def alphabeticPosition (b : Byte) : Option (Fin 26) :=
  if isUpper b then some (Fin.ofNat 26 (b.toNat - 0x41))
  else if isLower b then some (Fin.ofNat 26 (b.toNat - 0x61))
  else none

/-- `x mod 26` for an Int: the representative in 0..25 (R9, R124); `%` on Int is the Euclidean remainder (G3). -/
def residue (x : Int) : Fin 26 := Fin.ofNat 26 (x % 26).toNat

end Sys2Proof.Machine
end

