-- ==== Sys2Proof/Machine/Ops.lean ====
section
/-! DEFINITION. The named operations over the state: the buffer (R26, R27), the alphabet ROM (R12, R28), the
rotor (R57, R58), the events (R21), and the two shared ways a line or a response ends other than by going on:
`raise MalformedFrame(sub)` (R104) and `stop(c)` (R83, R105). -/

namespace Sys2Proof.Machine

/-! ### The buffer space (R25 to R27) -/

/-- Canonical form: the addresses are 0, 1, …, len - 1 in this order (R25 (1)). -/
def Memory.wf (m : Memory) : Bool := m.map Prod.fst == List.range m.length

/-- `len(buf)`, which acts as the write pointer (R13). -/
def Memory.len (m : Memory) : Nat := m.length

/-- The byte at an address, none where nothing has been written (R27, D25). -/
def Memory.read (m : Memory) (a : Nat) : Option Byte := m.lookup a

/-- `BufAppend(v)`: one byte at the address `len(buf)` (R26). -/
def Memory.push (m : Memory) (v : Byte) : Memory := m ++ [(Memory.len m, v)]

/-- `render()`: the bytes in insertion order (R27). -/
def Memory.bytes (m : Memory) : List Byte := m.map Prod.snd

/-- The buffer that holds the given bytes, in order. -/
def Memory.ofBytes (bs : List Byte) : Memory := bs.foldl Memory.push []

/-! ### The rotor (R12, R28, R57, R58) -/

/-- `ALPHA`, the read-only table `'A'`..`'Z'` (R12). -/
def alphaTable : Vector Byte 26 :=
  #v[0x41#8, 0x42#8, 0x43#8, 0x44#8, 0x45#8, 0x46#8, 0x47#8, 0x48#8, 0x49#8, 0x4A#8, 0x4B#8, 0x4C#8, 0x4D#8,
     0x4E#8, 0x4F#8, 0x50#8, 0x51#8, 0x52#8, 0x53#8, 0x54#8, 0x55#8, 0x56#8, 0x57#8, 0x58#8, 0x59#8, 0x5A#8]

/-- `Alpha(i)` (R28). -/
def alpha (i : Fin 26) : Byte := alphaTable[i]

/-- `map(symbol)` under a shift: a letter of either case goes to the upper-case letter at
`(index + shift) mod 26`, every other byte to itself (R58). -/
def mapSymbol (shift : Fin 26) (symbol : Byte) : Byte :=
  match alphabeticPosition symbol with
  | some index => alpha (Fin.ofNat 26 (index.val + shift.val))
  | none => symbol

/-- `rotate(delta)`: `shift <- (shift + delta) mod 26`, the sum over Int (R57). -/
def rotate (delta : Int) (s : State) : State :=
  { s with shift := residue ((s.shift.val : Int) + delta) }

/-! ### Writes to the state -/

/-- `BufAppend(v)` on the machine's buffer (R26). -/
def bufAppend (v : Byte) (s : State) : State := { s with buf := Memory.push s.buf v }

/-- `render()` (R27). -/
def render (s : State) : List Byte := Memory.bytes s.buf

/-- `emit e` (R9, R21). -/
def emit (e : Event) (s : State) : State := { s with out := s.out ++ [e] }

/-- `idle <- 0`: a line was read (R16, R77, D14). -/
def clearIdle (s : State) : State := { s with idle := 0 }

/-- `idle <- idle + 1`: an empty poll (R16, R78). -/
def countEmptyPoll (s : State) : State := { s with idle := s.idle + 1 }

/-- `EMPTY_POLL_LIMIT = some N and idle >= N` (R78, D13). -/
def limitReached (limit : Option PollLimit) (idle : Nat) : Bool :=
  match limit with
  | none => false
  | some l => l.n ≤ idle

/-- The condition of R78 on a state. -/
def pollLimitReached (s : State) : Bool := limitReached s.emptyPollLimit s.idle

/-- Sets the byte-serial parser's registers (R87). -/
def setParser (p : Parser) (s : State) : State := { s with parser := p }

/-! ### Errors and stops (R83, R104, R105) -/

/-- `raise MalformedFrame(sub)`: no state saved, no control transferred, `Err(MALFORMED, sub)` emitted (R9, R97,
R104); the step's `idle <- 0` is the loop's (R77). -/
def raiseMalformed (sub : MalformedClass) (s : State) : State := emit (.err .malformedFrame sub) s

/-- `stop(c)`: `run <- STOPPED; cause <- c; emit Finished(render())` (R83). -/
def stopWith (c : Cause) (s : State) : State :=
  emit (.finished (render s)) { s with run := .stopped, cause := c }

/-- What the loop does with a ContinueSignal: "if signal = stop: stop(END)" (R77). -/
def actOnSignal : ContinueSignal → State → State
  | .goOn, s => s
  | .stop, s => stopWith .endFrame s

/-! ### Reset and configuration (R19, R114, R116) -/

/-- Reset applied in any state under a configuration: the reset state of R23, the event log of a new run empty.
The transport is not the block's, so the responses still to come are kept (R18 (b), R113, R114, D19; log 16). -/
def State.applyResetWith (limit : Option PollLimit) (s : State) : State :=
  { State.resetWith limit with input := s.input, freeTaken := s.freeTaken }

/-- Reset applied in any state under the configuration it has (R114, R116). -/
def State.applyReset (s : State) : State := s.applyResetWith s.emptyPollLimit

/-- The configuration a requested `EMPTY_POLL_LIMIT` stands for; `some 0` is refused (R19, R78, U11; log 2). -/
def checkLimit (requested : Option Nat) : Except Refusal (Option PollLimit) :=
  match requested with
  | none => .ok none
  | some n => if h : 1 ≤ n then .ok (some ⟨n, h⟩) else .error .illegalPollLimit

/-- The reset state under a requested `EMPTY_POLL_LIMIT` (R19, R116). -/
def State.configure (requested : Option Nat) : Except Refusal State :=
  match checkLimit requested with
  | .ok limit => .ok (State.resetWith limit)
  | .error r => .error r

end Sys2Proof.Machine
end

