-- ==== Sys2Proof/Machine/ControlFrames.lean ====
section
/-! DEFINITION. The lines that touch neither rotor nor buffer: END (R71) and MALFORMED (R72). -/

namespace Sys2Proof.Machine

/-- END: signal stop, which the loop turns into `stop(END)` (R71, R77, R83). -/
def execEnd (s : State) : Host.Outcome State Fault Refusal :=
  .next (actOnSignal (continueSignal .endFrame) s)

/-- MALFORMED `sub`: `raise MalformedFrame(sub)`; signal continue (R72, R104). -/
def execMalformed (sub : MalformedClass) (s : State) : Host.Outcome State Fault Refusal :=
  .next (actOnSignal (continueSignal (.malformed sub)) (raiseMalformed sub s))

end Sys2Proof.Machine
end

