-- ==== Sys2Proof/Machine/DataFrames.lean ====
section
/-! DEFINITION. The frames that append a symbol: DATA (R68) and DATA.SPACE (R69). -/

namespace Sys2Proof.Machine

/-- DATA `c`: `BufAppend(map(c))` with the shift as it is now; signal continue (R68). -/
def execData (c : Byte) (s : State) : Host.Outcome State Fault Refusal :=
  .next (actOnSignal (continueSignal (.data c)) (bufAppend (mapSymbol s.shift c) s))

/-- DATA.SPACE: `BufAppend(map(0x20))`; signal continue (R69). -/
def execDataSpace (s : State) : Host.Outcome State Fault Refusal :=
  .next (actOnSignal (continueSignal .dataSpace) (bufAppend (mapSymbol s.shift spaceSymbol) s))

end Sys2Proof.Machine
end

