-- ==== Sys2Proof/Machine/RemapFrames.lean ====
section
/-! DEFINITION. The frame that turns the rotor: REMAP (R70). -/

namespace Sys2Proof.Machine

/-- REMAP `delta`: `rotate(delta)`; signal continue (R70). -/
def execRemap (delta : Int) (s : State) : Host.Outcome State Fault Refusal :=
  .next (actOnSignal (continueSignal (.remap delta)) (rotate delta s))

end Sys2Proof.Machine
end

