-- ==== Sys2Proof/Machine/Dispatch.lean ====
section
/-! DEFINITION. The dispatch of a decoded line by exhaustive matching (R67). -/

namespace Sys2Proof.Machine

/-- The whole effect of a decoded line on the state, the loop's action on its ContinueSignal included (R67, R77;
log 12). The step calls it only while RUNNING. -/
def exec (i : Instr) (s : State) : Host.Outcome State Fault Refusal :=
  match i with
  | .data c => Sys2Proof.Machine.execData c s
  | .dataSpace => Sys2Proof.Machine.execDataSpace s
  | .remap delta => Sys2Proof.Machine.execRemap delta s
  | .endFrame => Sys2Proof.Machine.execEnd s
  | .malformed sub => Sys2Proof.Machine.execMalformed sub s

end Sys2Proof.Machine
end

