-- ==== Sys2Proof/Machine/Loop.lean ====
section
/-! DEFINITION. The DecoderLoop (42_decoder_loop.md): how one transport response becomes one step (R76 to R80),
where the response comes from (R20, U8), and runs (R84). -/

namespace Sys2Proof.Machine

/-- Takes the next response: the first one placed in `input`, or, where none is placed, a free one. Taking it
consumes it (R20, R32; log 3). -/
def takeResponse (s : State) : Resp × State :=
  match s.input with
  | r :: rest => (r, { s with input := rest })
  | [] => (Config.freeResponse s.freeTaken, { s with freeTaken := s.freeTaken + 1 })

/-- Response `Line(l)`: `idle <- 0`, then parse and dispatch (R77, R102). -/
def onLine (l : Line) (s : State) : Host.Outcome State Fault Refusal :=
  exec (decode l) (clearIdle s)

/-- Response `NoData`: one more empty poll, and stop(IDLE) when the limit is reached (R78). -/
def onNoData (s : State) : State :=
  let polled := countEmptyPoll s
  if pollLimitReached polled then stopWith .idle polled else polled

/-- Response `Exhausted`: stop(EXHAUSTED) (R79). -/
def onExhausted (s : State) : State := stopWith .exhausted s

/-- Response `Failure`: stop(FAILURE), then `Fail` (R80). -/
def onFailure (s : State) : State := emit .fail (stopWith .failure s)

/-- The step's effect for a response already taken (R76). -/
def respond (r : Resp) (s : State) : Host.Outcome State Fault Refusal :=
  match r with
  | .line l => onLine l s
  | .noData => .next (onNoData s)
  | .exhausted => .next (onExhausted s)
  | .failure => .next (onFailure s)

/-- A run under a finite response sequence (R84): one step per response while RUNNING; the responses after the
end of the run are not part of it. -/
def runResponses : List Resp → State → Host.Outcome State Fault Refusal
  | [], s => .next s
  | r :: rs, s =>
    match s.run with
    | .stopped => .next s
    | .running =>
      match respond r s with
      | .next t => runResponses rs t
      | .fault f => .fault f
      | .refused f => .refused f

/-- The result of a run, `(buf, cause, shift)` (R84). -/
def runResult (s : State) : List Byte × Cause × Fin 26 := (render s, s.cause, s.shift)

/-- The response a line-level interface takes when it presents several conditions at once: `Failure` over
`Exhausted` over `Line` over `NoData` (R102, D20; log 14). -/
def arbitrate (failure exhausted : Bool) (line : Option Line) (noData : Bool) : Option Resp :=
  if failure then some .failure
  else if exhausted then some .exhausted
  else
    match line with
    | some l => some (.line l)
    | none => if noData then some .noData else none

end Sys2Proof.Machine
end

