-- ==== Sys2Proof/Machine/Step.lean ====
section
/-! DEFINITION. One step of the machine (R76): while RUNNING, take one response and act on it; STOPPED has no
step (R81). -/

namespace Sys2Proof.Machine

/-- One iteration of the DecoderLoop (R76, R81, U12). -/
def step (s : State) : Host.Outcome State Fault Refusal :=
  match s.run with
  | .stopped => .fault .stopped
  | .running => respond (takeResponse s).1 (takeResponse s).2

/-- `s` with the line of a table word placed as the transport's next response; the machine is fed by the
transport, so this stands for the stream's producer (log 9). -/
def State.withFetchWord (s : State) (nbits w : Nat) : State :=
  { s with input := .line (lineOfTableWord nbits w) :: s.input }

end Sys2Proof.Machine
end

