-- ==== Sys2Proof/Machine/Capacity.lean ====
section
/-! DEFINITION. The model instantiated with a finite buffer capacity (R34, U3). The machine of `step` has
`BUF_CAP = none` (R8, R34); this step refuses a DATA frame that meets a full buffer and is `step` otherwise. -/

namespace Sys2Proof.Machine

/-- The frame appends a symbol (R26: "invoked only by a DATA or DATA.SPACE frame"). -/
def appends : Instr → Bool
  | .data _ => true
  | .dataSpace => true
  | .remap _ => false
  | .endFrame => false
  | .malformed _ => false

/-- The response is a line whose frame appends a symbol. -/
def respAppends : Resp → Bool
  | .line l => appends (decode l)
  | .noData => false
  | .exhausted => false
  | .failure => false

/-- The buffer holds as many symbols as its capacity allows. -/
def bufferFull (cap : Option Nat) (s : State) : Bool :=
  match cap with
  | none => false
  | some n => n ≤ Memory.len s.buf

/-- The step under a capacity: "must refuse that step rather than drop the symbol, overwrite, or stop" (R34). -/
def stepWithCapacity (cap : Option Nat) (s : State) : Host.Outcome State Fault Refusal :=
  match s.run with
  | .stopped => step s
  | .running =>
    if bufferFull cap s && respAppends (takeResponse s).1 then .refused .bufferFull else step s

end Sys2Proof.Machine
end

