-- ==== Sys2Proof/Machine/ParserFsm.lean ====
section
/-! DEFINITION. The byte-serial parser (43_parser_fsm.md): its transitions on a character (R88 to R90), what it
hands to the dispatch at end of line (R92, R93), and the step of the machine on one input event (R86, R91).
It is the spec's own realisation (D21); the line-level rules win where the two could differ (R7). -/

namespace Sys2Proof.Machine

/-- An input event of the byte-serial interface (R86). -/
inductive InEv where
  /-- the next character of the current line -/
  | char (b : Byte)
  /-- the current line is complete -/
  | eol
  | noData
  | exhausted
  | failure
  deriving DecidableEq, Repr, Inhabited

/-- The transitions on `Char(b)`: R88 (literals), R89 (DATA payload), R90 (REMAP payload). -/
def charStep (b : Byte) (p : Parser) : Parser :=
  match p.ps with
  | .start =>
    if b = 0x4C#8 then { p with ps := .l }
    else if b = 0x4D#8 then { p with ps := .m }
    else if b = 0x45#8 then { p with ps := .e }
    else { p with ps := .badU }
  | .l => if b = 0x2C#8 then { p with ps := .lc } else { p with ps := .badU }
  | .m => if b = 0x2C#8 then { p with ps := .mc } else { p with ps := .badU }
  | .e => if b = 0x4E#8 then { p with ps := .en } else { p with ps := .badU }
  | .en => if b = 0x44#8 then { p with ps := .end3 } else { p with ps := .badU }
  | .end3 => { p with ps := .badU }
  | .badU => p
  | .badD => p
  | .badN => p
  | .lc => { p with ps := .l1, c := b }
  | .l1 => if p.c = 0x53#8 ∧ b = 0x70#8 then { p with ps := .sp2 } else { p with ps := .badD }
  | .sp2 => if b = 0x61#8 then { p with ps := .sp3 } else { p with ps := .badD }
  | .sp3 => if b = 0x63#8 then { p with ps := .sp4 } else { p with ps := .badD }
  | .sp4 => if b = 0x65#8 then { p with ps := .space } else { p with ps := .badD }
  | .space => { p with ps := .badD }
  | .mc =>
    if b = 0x2D#8 then { p with ps := .mneg, neg := true }
    else if isDigit b then { p with ps := .mnum, neg := false, acc := Fin.ofNat 26 (digitValue b) }
    else { p with ps := .badN }
  | .mneg =>
    if isDigit b then { p with ps := .mnum, acc := Fin.ofNat 26 (digitValue b) }
    else { p with ps := .badN }
  | .mnum =>
    if isDigit b then { p with acc := Fin.ofNat 26 (10 * p.acc.val + digitValue b) }
    else { p with ps := .badN }

/-- The rotation applied at `Eol` in MNUM: `if neg = 1 then (26 - acc) mod 26 else acc` (R92). -/
def eolResidue (p : Parser) : Fin 26 :=
  if p.neg then Fin.ofNat 26 (26 - p.acc.val) else p.acc

/-- The frame handed to the dispatch at `Eol`, chosen by `ps` (R93). -/
def eolFrame (p : Parser) : Instr :=
  match p.ps with
  | .l1 => .data p.c
  | .space => .dataSpace
  | .mnum => .remap ((eolResidue p).val : Int)
  | .end3 => .endFrame
  | .start => .malformed .unrecognized
  | .l => .malformed .unrecognized
  | .m => .malformed .unrecognized
  | .e => .malformed .unrecognized
  | .en => .malformed .unrecognized
  | .badU => .malformed .unrecognized
  | .lc => .malformed .missingPayload
  | .mc => .malformed .missingPayload
  | .sp2 => .malformed .badDataPayload
  | .sp3 => .malformed .badDataPayload
  | .sp4 => .malformed .badDataPayload
  | .badD => .malformed .badDataPayload
  | .mneg => .malformed .nonNumeric
  | .badN => .malformed .nonNumeric

/-- The parser's registers after an event: a character moves it, an end of line, an end of stream or a failure
puts `ps` back to START, `NoData` changes nothing (R88 to R91, R93). -/
def parserAfter (e : InEv) (p : Parser) : Parser :=
  match e with
  | .char b => charStep b p
  | .eol => { p with ps := .start }
  | .noData => p
  | .exhausted => { p with ps := .start }
  | .failure => { p with ps := .start }

/-- The machine's step on one input event, taken only while RUNNING (R86, R91, R93, R95 `in_ready`). -/
def serialStep (e : InEv) (s : State) : Host.Outcome State Fault Refusal :=
  match s.run with
  | .stopped => .fault .stopped
  | .running =>
    let t := setParser (parserAfter e s.parser) s
    match e with
    | .char _ => .next t
    | .eol => exec (eolFrame s.parser) (clearIdle t)
    | .noData => .next (onNoData t)
    | .exhausted => .next (onExhausted t)
    | .failure => .next (onFailure t)

/-- A sequence of input events, each taken in turn; the machine takes none once STOPPED. -/
def runSerial : List InEv → State → Host.Outcome State Fault Refusal
  | [], s => .next s
  | e :: es, s =>
    match s.run with
    | .stopped => .next s
    | .running =>
      match serialStep e s with
      | .next t => runSerial es t
      | .fault f => .fault f
      | .refused f => .refused f

/-- The events a response of the line-level model corresponds to (R86). -/
def eventsOf : Resp → List InEv
  | .line l => l.map InEv.char ++ [.eol]
  | .noData => [.noData]
  | .exhausted => [.exhausted]
  | .failure => [.failure]

/-- The event a byte-serial interface takes when it presents several conditions at once: `Failure` over
`Exhausted` over `Eol` over `NoData` (R102, D20). A character has no place in that order; none is offered
here beside another condition (log 14). -/
def arbitrateSerial (failure exhausted eol noData : Bool) : Option InEv :=
  if failure then some .failure
  else if exhausted then some .exhausted
  else if eol then some .eol
  else if noData then some .noData
  else none

end Sys2Proof.Machine
end

