-- ==== Sys2Proof/Machine/View.lean ====
section
/-! DEFINITION. What the environment may observe without changing anything: the status view (R22), `BufRead`
(R27), and the arguments of the optional progress hook (R22, R110). -/

namespace Sys2Proof.Machine

/-- `BufRead(i)`: `buf[i]` for `i < len(buf)`, refused otherwise (R27, D25, U9). -/
def bufRead (i : Nat) (s : State) : Except Refusal Byte :=
  match Memory.read s.buf i with
  | some b => .ok b
  | none => .error .bufReadPastEnd

/-- The status view but for `buf[i]`: shift, len(buf), run, cause (R22). -/
structure StatusView where
  shift : Fin 26
  len : Nat
  run : Run
  cause : Cause
  deriving DecidableEq, Repr

/-- The status view of a state (R22); reading it has no side effect (R32). -/
def statusView (s : State) : StatusView :=
  { shift := s.shift, len := Memory.len s.buf, run := s.run, cause := s.cause }

/-- The progress hook's arguments: frame description, rotor summary, buffer snapshot (R22). -/
structure ProgressReport where
  frame : Instr
  rotor : Fin 26
  snapshot : List Byte
  deriving DecidableEq, Repr

/-- The hook's arguments for a line just consumed and the state after its step: the parse result, `shift`,
`buf` (R22). Whether the hook is invoked for a given line is the environment's (U16, N14; log 18). -/
def progressReport (l : Line) (after : State) : ProgressReport :=
  { frame := decode l, rotor := after.shift, snapshot := render after }

end Sys2Proof.Machine
end

