-- ==== Sys2Proof/Machine/Ports.lean ====
section
/-! DEFINITION. The illustrative signal-level interface of R95: one input event per cycle at most, taken where
`in_valid = 1` and `in_ready = 1`, its whole effect visible in the next cycle. Names and widths are the spec's
own (D27). The configuration ports are sampled while `rst = 1` and held in `emptyPollLimit` from then on: it is
fixed before reset is released and constant for the run (R19, R116; log 15). -/

namespace Sys2Proof.Machine

/-- The input ports (R95); `clk` is the call of `cycle`. -/
structure PortsIn where
  /-- `rst` -/
  rst : Bool
  /-- `in_valid` -/
  inValid : Bool
  /-- `in_kind`: 0 Char, 1 Eol, 2 NoData, 3 Exhausted, 4 Failure -/
  inKind : BitVec 3
  /-- `in_byte`, the character when `in_kind = 0` -/
  inByte : Byte
  /-- `cfg_poll_en`: 1 when `EMPTY_POLL_LIMIT = some N` -/
  cfgPollEn : Bool
  /-- `cfg_poll_limit`: `N` when `cfg_poll_en = 1`; the width is the implementation's -/
  cfgPollLimit : Nat
  deriving DecidableEq, Repr

/-- The level outputs, functions of the state (R95). -/
structure PortLevels where
  /-- `in_ready`: 1 while RUNNING -/
  inReady : Bool
  /-- `shift_o` -/
  shiftO : BitVec Config.shiftW
  /-- `running_o` -/
  runningO : BitVec 1
  /-- `cause_o` -/
  causeO : BitVec 3
  /-- `len_o` -/
  lenO : Nat
  deriving DecidableEq, Repr

/-- The pulse outputs of one cycle (R95). -/
structure PortPulses where
  /-- `sym_valid` and `sym_o`: the byte appended this cycle -/
  sym : Option Byte
  /-- `err_valid` and `err_sub`: the class reported this cycle -/
  err : Option (BitVec 3)
  /-- `done`: the transition to STOPPED -/
  done : Bool
  /-- `fail`: the event `Fail` -/
  fail : Bool
  deriving DecidableEq, Repr

/-- `in_ready` (R95). -/
def inReady (s : State) : Bool := decide (s.run = .running)

/-- The level outputs of a state (R95). -/
def portLevels (s : State) : PortLevels :=
  { inReady := inReady s
    shiftO := BitVec.ofNat Config.shiftW s.shift.val
    runningO := s.run.code
    causeO := s.cause.code
    lenO := Memory.len s.buf }

/-- `rd_data` for `rd_idx`, valid when `rd_idx < len_o` (R95, R27). -/
def readPort (rdIdx : Nat) (s : State) : Except Refusal Byte := bufRead rdIdx s

/-- The event an `in_kind` value stands for; 5, 6 and 7 are given no meaning (R95; log 15). -/
def inEvent (kind : BitVec 3) (b : Byte) : Except Refusal InEv :=
  match kind.toNat with
  | 0 => .ok (.char b)
  | 1 => .ok .eol
  | 2 => .ok .noData
  | 3 => .ok .exhausted
  | 4 => .ok .failure
  | _ => .error .reservedInputKind

/-- The `EMPTY_POLL_LIMIT` the configuration ports ask for: `cfg_poll_limit` counts only when `cfg_poll_en = 1`
(R95). -/
def portLimit (p : PortsIn) : Option Nat := if p.cfgPollEn then some p.cfgPollLimit else none

/-- A cycle with `rst = 1`: the reset state under the configuration the ports present (R95, R113, R116); a limit
of 0 is refused, as it is no legal configuration (R78, U11; log 2). -/
def resetCycle (p : PortsIn) (s : State) : Host.Outcome State Fault Refusal :=
  match checkLimit (portLimit p) with
  | .ok limit => .next (s.applyResetWith limit)
  | .error r => .refused r

/-- One cycle: `rst` puts the reset state and wins over an offered event (log 15); an event is taken where
`in_valid` and `in_ready` are both 1; otherwise the state is held (R95, R111). -/
def cycle (p : PortsIn) (s : State) : Host.Outcome State Fault Refusal :=
  if p.rst then resetCycle p s
  else if p.inValid && inReady s then
    match inEvent p.inKind p.inByte with
    | .ok e => serialStep e s
    | .error r => .refused r
  else .next s

/-- The class an event reports, if it is an error report. -/
def errSubOf : Event → Option (BitVec 3)
  | .err _ sub => some (subCode sub)
  | .finished _ => none
  | .fail => none

/-- The pulses of a cycle from the state before it to the state after: the appended byte, the events emitted
(R95, R21). Meant for a cycle that is not a reset. -/
def portPulses (before after : State) : PortPulses :=
  let emitted := after.out.drop before.out.length
  { sym := (Memory.bytes after.buf)[Memory.len before.buf]?
    err := emitted.findSome? errSubOf
    done := decide (before.run = .running ∧ after.run = .stopped)
    fail := emitted.contains .fail }

end Sys2Proof.Machine
end

