-- ==== Sys2Proof/Safety.lean ====
section
/-! DEFINITION. What a safe state and a safe step are, in the terms the claims use: R24's invariants, the
append-only rule of R13, and the single `Finished` of R82. -/

namespace Sys2Proof

open Machine

/-- The event is a `Finished` (R21). -/
def isFinished : Event → Bool
  | .finished _ => true
  | .err _ _ => false
  | .fail => false

/-- The number of `Finished` events emitted in this run (R82). -/
def finishedCount (s : State) : Nat := s.out.countP isFinished

/-- R24's invariants of one state, (a) being the type of `shift`, with R82 and R16. -/
structure Inv (s : State) : Prop where
  /-- the buffer is in canonical form (R25) -/
  buf_wf : Memory.wf s.buf = true
  /-- no lower-case letter is in the buffer (R24 (d), R121) -/
  no_lower : ∀ b ∈ Memory.bytes s.buf, isLower b = false
  /-- `cause = NONE` exactly when `run = RUNNING` (R24 (f)) -/
  cause_none : s.cause = .none ↔ s.run = .running
  /-- under a limit N, `idle < N` while RUNNING (R24 (g)) -/
  idle_lt : ∀ limit, s.emptyPollLimit = some limit → s.run = .running → s.idle < limit.n
  /-- under a limit N, `idle` never exceeds N (R16) -/
  idle_le : ∀ limit, s.emptyPollLimit = some limit → s.idle ≤ limit.n
  /-- `Finished` has not been emitted while RUNNING (R82) -/
  finished_not_yet : s.run = .running → finishedCount s = 0
  /-- `Finished` has been emitted once when STOPPED (R82) -/
  finished_once : s.run = .stopped → finishedCount s = 1
  /-- what it carried is the buffer, which no longer changes (R82, R83, R81) -/
  finished_buffer : s.run = .stopped → Event.finished (render s) ∈ s.out

/-- The buffer after is the buffer before with zero or one byte added at the end (R24 (c)). -/
def AppendOnly (s t : State) : Prop :=
  ∃ added : List Byte, added.length ≤ 1 ∧ render t = render s ++ added

/-- The line-level tuple of R10, under which the two realisations of the parser are compared (R94). -/
def archTuple (s : State) : Fin 26 × Memory × Run × Cause × Nat :=
  (s.shift, s.buf, s.run, s.cause, s.idle)

end Sys2Proof
end

