-- ==== Sys2Proof/Certificates/Slice0/Obligations.lean ====
section
/-! DEFINITION. The statements for the provers, from the numbered rules of spec/. Where a statement rests on a
point the spec marks as its own decision or inference, its docstring names the row. -/

namespace Sys2Proof.Spec

/-- The value `map` gives, in the adder form of R60: a number, not the model's table look-up. -/
def mapValue (shift b : Nat) : Nat :=
  if 0x41 ≤ b ∧ b ≤ 0x5A then 0x41 + (b - 0x41 + shift) % 26
  else if 0x61 ≤ b ∧ b ≤ 0x7A then 0x41 + (b - 0x61 + shift) % 26
  else b

/-- A letter: a byte in 0x41..0x5A or 0x61..0x7A (00_scope.md glossary). -/
def Letter (b : Byte) : Prop :=
  (0x41 ≤ b.toNat ∧ b.toNat ≤ 0x5A) ∨ (0x61 ≤ b.toNat ∧ b.toNat ≤ 0x7A)

/-- The symbol a DATA frame carries (R49). -/
def symbolOf : Instr → Option Byte
  | .data c => some c
  | .dataSpace => some 0x20#8
  | .remap _ => none
  | .endFrame => none
  | .malformed _ => none

/-- The delta of a REMAP frame, 0 for every other line. -/
def deltaOf : Instr → Int
  | .data _ => 0
  | .dataSpace => 0
  | .remap delta => delta
  | .endFrame => 0
  | .malformed _ => 0

/-- The sum of the deltas of the REMAP lines among `ls`. -/
def deltaSum (ls : List Line) : Int := (ls.map (fun l => deltaOf (decode l))).sum

/-- What the lines `ls` append when the shift before them is `start`, line by line: the `k`-th line contributes
`map` of its symbol under `start` plus the sum of the deltas of the lines before it, modulo 26, and nothing if it
carries no symbol. -/
def messageFrom (start : Int) (ls : List Line) : List Byte :=
  (List.range ls.length).filterMap (fun k =>
    (symbolOf (decode (ls.getD k []))).map
      (Machine.mapSymbol (Machine.residue (start + deltaSum (ls.take k)))))

/-- R75's message: what the lines append from shift 0. -/
def messageOf (ls : List Line) : List Byte := messageFrom 0 ls

/-- The value of a digit sequence as a decimal numeral: each digit times its power of ten (R48). -/
def decimalValue : List Byte → Nat
  | [] => 0
  | b :: rest => (b.toNat - 0x30) * 10 ^ rest.length + decimalValue rest

/-- Every byte is one of `'0'`..`'9'`. -/
def AllDigits (d : List Byte) : Prop := ∀ b ∈ d, 0x30 ≤ b.toNat ∧ b.toNat ≤ 0x39

/-- A decoded line with the delta reduced to its residue, which is all that the byte-serial parser keeps (R94). -/
def residual : Instr → Instr
  | .data c => .data c
  | .dataSpace => .dataSpace
  | .remap delta => .remap (delta % 26)
  | .endFrame => .endFrame
  | .malformed sub => .malformed sub

end Sys2Proof.Spec

open Sys2Proof Sys2Proof.Machine

/-! ### Reset -/

/-- R23, R112: the reset state, whatever the configuration; `map` is the case fold there and `render()` is empty.
`cause` and `idle` are the spec's own registers (D13, D15). -/
def Obligations.ResetIsDecoderStart : Prop :=
  ∀ limit : Option PollLimit,
    (State.resetWith limit).shift.val = 0 ∧ (State.resetWith limit).buf = [] ∧
    (State.resetWith limit).run = .running ∧ (State.resetWith limit).cause = .none ∧
    (State.resetWith limit).idle = 0 ∧ (State.resetWith limit).parser.ps = .start ∧
    render (State.resetWith limit) = [] ∧
    ∀ b : Byte,
      (mapSymbol (State.resetWith limit).shift b).toNat =
        if 0x61 ≤ b.toNat ∧ b.toNat ≤ 0x7A then b.toNat - 0x20 else b.toNat

/-- R114, R116 (decision D19): reset in any state under any configuration gives the reset state of that configuration
in every register of R23's table, emits no `Finished`, and leaves RUNNING even from STOPPED; without a new
configuration the old one stays. That the responses still to come are kept and the event log starts anew is the
model's choice (log 16). -/
def Obligations.ResetFromAnyStateRestarts : Prop :=
  ∀ (limit : Option PollLimit) (s : State),
    archTuple (s.applyResetWith limit) = ((0 : Fin 26), ([] : Memory), Run.running, Cause.none, 0) ∧
    (s.applyResetWith limit).parser.ps = .start ∧ (s.applyResetWith limit).emptyPollLimit = limit ∧
    finishedCount (s.applyResetWith limit) = 0 ∧ (s.applyResetWith limit).input = s.input ∧
    Inv (s.applyResetWith limit) ∧ s.applyReset = s.applyResetWith s.emptyPollLimit

/-- R19, R78, U11 (decision D13): `none` and every `some N` with N >= 1 configure a reset state, `some 0` is refused. -/
def Obligations.ConfigurationNeedsPositiveLimit : Prop :=
  State.configure none = .ok (State.resetWith none) ∧
  State.configure (some 0) = .error .illegalPollLimit ∧
  ∀ limit : PollLimit, State.configure (some limit.n) = .ok (State.resetWith (some limit))

/-! ### The rotor -/

/-- R57: `rotate(delta)` puts `(shift + delta) mod 26`, non-negative, into `shift`, for every Int; nothing else is
written; and only a REMAP frame invokes it. -/
def Obligations.RotateAddsDeltaModulo26 : Prop :=
  (∀ (s : State) (delta : Int),
    ((rotate delta s).shift.val : Int) = ((s.shift.val : Int) + delta) % 26 ∧
    { rotate delta s with shift := s.shift } = s) ∧
  (∀ (i : Instr) (s t : State), exec i s = .next t → (∀ delta, i ≠ .remap delta) → t.shift = s.shift)

/-- R58, R59, R60: for every shift and every one of the 256 bytes the table look-up gives the value of the adder
form. Upper-case output and the pass-through of bytes above 0x7F are the spec's decisions D4 and D26, the code
points its general knowledge G1. -/
def Obligations.MapIsCaesarShift : Prop :=
  ∀ (shift : Fin 26) (b : Byte), (mapSymbol shift b).toNat = Spec.mapValue shift.val b.toNat

/-- R59: `alphabetic_position` is A=0 … Z=25 for a letter of either case, and is applied to no other byte. -/
def Obligations.AlphabeticPositionOfLetters : Prop :=
  ∀ b : Byte,
    ((0x41 ≤ b.toNat ∧ b.toNat ≤ 0x5A) →
      ∃ p : Fin 26, alphabeticPosition b = some p ∧ p.val = b.toNat - 0x41) ∧
    ((0x61 ≤ b.toNat ∧ b.toNat ≤ 0x7A) →
      ∃ p : Fin 26, alphabeticPosition b = some p ∧ p.val = b.toNat - 0x61) ∧
    (¬ Spec.Letter b → alphabeticPosition b = none)

/-- R61: rotations that sum to a multiple of 26 restore the shift, from every shift; from shift 0 the `map` is that
of the reset state. -/
def Obligations.RotationsSummingTo26kAreIdentity : Prop :=
  ∀ (deltas : List Int) (s : State), deltas.sum % 26 = 0 →
    (deltas.foldl (fun u d => rotate d u) s).shift = s.shift ∧
    (s.shift = 0 → ∀ b, mapSymbol (deltas.foldl (fun u d => rotate d u) s).shift b =
      mapSymbol State.reset.shift b)

/-- R62: `rotate(n)` then `rotate(-n)` restores the shift, hence `map`, for every n and every starting shift. -/
def Obligations.RotateInverseRestores : Prop :=
  ∀ (n : Int) (s : State),
    (rotate (-n) (rotate n s)).shift = s.shift ∧
    ∀ b, mapSymbol (rotate (-n) (rotate n s)).shift b = mapSymbol s.shift b

/-- R63: `map` is the identity on every non-letter, whatever the shift. -/
def Obligations.NonLettersPassThrough : Prop :=
  ∀ (shift : Fin 26) (b : Byte), ¬ Spec.Letter b → mapSymbol shift b = b

/-- R64 (an inference the spec marks as derived from R57): rotations compose by adding the deltas, and a delta turns
the rotor as its residue does. -/
def Obligations.RotationsCompose : Prop :=
  ∀ (a b : Int) (s : State), rotate b (rotate a s) = rotate (a + b) s ∧ rotate (a % 26) s = rotate a s

/-- R65 (derived from R58): for a fixed shift `map` permutes the 26 upper-case letters, the shift `26 - s` undoes the
shift `s` on them, both cases of a letter have one image, and no image is a lower-case letter. -/
def Obligations.MapPermutesUpperCase : Prop :=
  ∀ shift : Fin 26,
    (∀ b : Byte, isUpper b = true → isUpper (mapSymbol shift b) = true ∧
      mapSymbol (Fin.ofNat 26 (26 - shift.val)) (mapSymbol shift b) = b ∧
      mapSymbol shift (b + 0x20#8) = mapSymbol shift b) ∧
    (∀ b c : Byte, isUpper b = true → isUpper c = true → mapSymbol shift b = mapSymbol shift c → b = c) ∧
    (∀ c : Byte, isUpper c = true → ∃ b : Byte, isUpper b = true ∧ mapSymbol shift b = c) ∧
    (∀ b : Byte, isLower (mapSymbol shift b) = false)

/-- R66, S1: after `rotate(2)` from shift 0, `A` maps to `C`; under no shift but 0 does any upper-case letter map
to itself, so the identity mapping is not admitted. -/
def Obligations.RotorIsNotDegenerate : Prop :=
  (∀ s : State, s.shift = 0 → mapSymbol (rotate 2 s).shift 0x41#8 = 0x43#8) ∧
  (∀ (shift : Fin 26) (b : Byte), shift ≠ 0 → isUpper b = true → mapSymbol shift b ≠ b)

/-! ### The buffer -/

/-- R26: `BufAppend(v)` writes one byte at the address `len(buf)`, for every byte, and no other address; it keeps
the canonical form; only DATA and DATA.SPACE write the buffer. -/
def Obligations.AppendWritesOneByteAtLen : Prop :=
  (∀ (m : Memory) (v : Byte),
    Memory.bytes (Memory.push m v) = Memory.bytes m ++ [v] ∧
    Memory.len (Memory.push m v) = Memory.len m + 1 ∧
    (∀ a, a ≠ Memory.len m → Memory.read (Memory.push m v) a = Memory.read m a) ∧
    (Memory.wf m = true → Memory.wf (Memory.push m v) = true ∧ Memory.read (Memory.push m v) (Memory.len m) = some v)) ∧
  (∀ (i : Instr) (s t : State), exec i s = .next t → (∀ c, i ≠ .data c) → i ≠ .dataSpace → t.buf = s.buf)

/-- R27, D25 (refusal past the end is the spec's decision D25): `render()` is `buf[0] … buf[len-1]`; `BufRead(i)` is
`buf[i]` below the length and is refused at and above it. Over canonical buffers. -/
def Obligations.RenderAndReadTheBuffer : Prop :=
  ∀ s : State, Memory.wf s.buf = true →
    (render s).length = Memory.len s.buf ∧
    (∀ i (h : i < (render s).length), bufRead i s = .ok ((render s)[i])) ∧
    (∀ i, Memory.len s.buf ≤ i → bufRead i s = .error .bufReadPastEnd)

/-! ### Decoding -/

/-- Sanity, V-PARSE rows 1, 3, 4, 9, 11, 18, 21, 24, 26, 34, 39, 40, 43 and R52: lines written out from R43 to R47. -/
def Obligations.LinesDecodeAsTabled : Prop :=
  decode [0x4C#8, 0x2C#8, 0x48#8] = .data 0x48#8 ∧
  decode [0x4C#8, 0x2C#8, 0x53#8, 0x70#8, 0x61#8, 0x63#8, 0x65#8] = .dataSpace ∧
  decode [0x4C#8, 0x2C#8, 0x20#8] = .data 0x20#8 ∧
  decode [0x4C#8, 0x2C#8] = .malformed .missingPayload ∧
  decode [0x4C#8, 0x2C#8, 0x53#8, 0x70#8, 0x61#8, 0x63#8] = .malformed .badDataPayload ∧
  decode [0x4D#8, 0x2C#8, 0x2D#8, 0x32#8] = .remap (-2) ∧
  decode [0x4D#8, 0x2C#8, 0x30#8, 0x30#8, 0x37#8] = .remap 7 ∧
  decode [0x4D#8, 0x2C#8] = .malformed .missingPayload ∧
  decode [0x4D#8, 0x2C#8, 0x2B#8, 0x32#8] = .malformed .nonNumeric ∧
  decode [0x45#8, 0x4E#8, 0x44#8] = .endFrame ∧
  decode [0x45#8, 0x4E#8, 0x44#8, 0x0D#8] = .malformed .unrecognized ∧
  decode [] = .malformed .unrecognized ∧
  decode [0x58#8, 0x2C#8, 0x3F#8] = .malformed .unrecognized

/-- R43 (any byte as `c`, exactly three bytes: decisions D6, D26): a line decodes to DATA `c` exactly when it is
`L,` and the one byte `c`. -/
def Obligations.DataFormatExact : Prop :=
  ∀ (l : Line) (c : Byte), decode l = .data c ↔ l = [0x4C#8, 0x2C#8, c]

/-- R44: a line decodes to DATA.SPACE exactly when it is the seven bytes `L,Space`; the near misses of the rule
are malformed and `L,S` is DATA `S`; the symbol is 0x20. -/
def Obligations.SpaceFormatExact : Prop :=
  (∀ l : Line, decode l = .dataSpace ↔ l = [0x4C#8, 0x2C#8, 0x53#8, 0x70#8, 0x61#8, 0x63#8, 0x65#8]) ∧
  decode [0x4C#8, 0x2C#8, 0x73#8, 0x70#8, 0x61#8, 0x63#8, 0x65#8] = .malformed .badDataPayload ∧
  decode [0x4C#8, 0x2C#8, 0x53#8, 0x50#8, 0x41#8, 0x43#8, 0x45#8] = .malformed .badDataPayload ∧
  decode [0x4C#8, 0x2C#8, 0x53#8, 0x70#8, 0x61#8, 0x63#8, 0x65#8, 0x20#8] = .malformed .badDataPayload ∧
  decode [0x4C#8, 0x2C#8, 0x53#8, 0x70#8, 0x61#8, 0x63#8] = .malformed .badDataPayload ∧
  decode [0x4C#8, 0x2C#8, 0x53#8] = .data 0x53#8 ∧
  (∀ s : State, exec .dataSpace s = exec (.data 0x20#8) s)

/-- R45, R48 (the grammar is decision D7, the unbounded range D8, the digit order D28 and G2): a line decodes to
REMAP exactly when it is `M,`, an optional `-`, and one or more digits; delta is the signed decimal value. -/
def Obligations.RemapFormatExact : Prop :=
  ∀ (l : Line) (delta : Int), decode l = .remap delta ↔
    ∃ d : List Byte, d ≠ [] ∧ Spec.AllDigits d ∧
      ((l = [0x4D#8, 0x2C#8] ++ d ∧ delta = (Spec.decimalValue d : Int)) ∨
       (l = [0x4D#8, 0x2C#8, 0x2D#8] ++ d ∧ delta = -(Spec.decimalValue d : Int)))

/-- R46: a line decodes to END exactly when it is the three bytes `END`; the near misses of the rule are malformed. -/
def Obligations.EndFormatExact : Prop :=
  (∀ l : Line, decode l = .endFrame ↔ l = [0x45#8, 0x4E#8, 0x44#8]) ∧
  decode [0x45#8, 0x4E#8, 0x44#8, 0x20#8] = .malformed .unrecognized ∧
  decode [0x65#8, 0x6E#8, 0x64#8] = .malformed .unrecognized ∧
  decode [0x45#8, 0x6E#8, 0x64#8] = .malformed .unrecognized ∧
  decode [0x45#8, 0x4E#8, 0x44#8, 0x58#8] = .malformed .unrecognized ∧
  decode [0x45#8, 0x4E#8, 0x44#8, 0x0D#8] = .malformed .unrecognized

/-- R47: which lines fall into which malformed class, each class by its own description (the grammar of numerals
is decision D7, exact matching of the prefixes D5, the payload length D6). -/
def Obligations.MalformedClassesAsListed : Prop :=
  ∀ l : Line,
    (decode l = .malformed .unrecognized ↔
      (l.take 2 ≠ [0x4C#8, 0x2C#8] ∧ l.take 2 ≠ [0x4D#8, 0x2C#8] ∧ l ≠ [0x45#8, 0x4E#8, 0x44#8])) ∧
    (decode l = .malformed .missingPayload ↔ (l = [0x4C#8, 0x2C#8] ∨ l = [0x4D#8, 0x2C#8])) ∧
    (decode l = .malformed .badDataPayload ↔
      (l.take 2 = [0x4C#8, 0x2C#8] ∧ 4 ≤ l.length ∧ l.drop 2 ≠ [0x53#8, 0x70#8, 0x61#8, 0x63#8, 0x65#8])) ∧
    (decode l = .malformed .nonNumeric ↔
      (l.take 2 = [0x4D#8, 0x2C#8] ∧ 3 ≤ l.length ∧
        ¬ ∃ d : List Byte, d ≠ [] ∧ Spec.AllDigits d ∧ (l.drop 2 = d ∨ l.drop 2 = [0x2D#8] ++ d)))

/-- R53 (decision D31): the table's match, mask, length and tail find for every line the row of the mnemonic the
decoder gives, and no line fits two frame rows. -/
def Obligations.OpcodeTableAgreesWithDecoder : Prop :=
  ∀ l : Line, (rowOfLine l).mnemonic = (decode l).mnemonic ∧
    ∀ r₁ ∈ frameRows, ∀ r₂ ∈ frameRows, r₁.fits l = true → r₂.fits l = true → r₁ = r₂

/-- R43 to R46: decoding the encoding of any frame, with any operand, gives the frame back. -/
def Obligations.DecodeEncodeRoundTrip : Prop :=
  ∀ i : Instr, i.wellFormed = true → decode (encode i) = i

/-- R42, R51: `parse` is total, and a line is a frame exactly when it is the encoding of one up to the spelling of a
REMAP's numeral. -/
def Obligations.FramesAreExactlyTheEncodings : Prop :=
  ∀ l : Line, (decode l).wellFormed = true ↔
    (∃ i : Instr, i.wellFormed = true ∧ l = encode i) ∨
    (∃ d : List Byte, d ≠ [] ∧ Spec.AllDigits d ∧ (l = [0x4D#8, 0x2C#8] ++ d ∨ l = [0x4D#8, 0x2C#8, 0x2D#8] ++ d))

/-! ### The frames: results, completion, frames of the unchanged -/

/-- R68: DATA `c` completes in every state; it appends `map(c)` under the shift as it is now and writes nothing
else; a non-letter is appended unchanged, a lower-case letter as an upper-case one. -/
def Obligations.DataAppendsMappedSymbol : Prop :=
  ∀ (s : State) (c : Byte),
    exec (.data c) s = .next { s with buf := s.buf ++ [(s.buf.length, mapSymbol s.shift c)] } ∧
    (¬ Spec.Letter c → exec (.data c) s = .next { s with buf := s.buf ++ [(s.buf.length, c)] }) ∧
    (isLower c = true → isUpper (mapSymbol s.shift c) = true)

/-- R69: DATA.SPACE completes in every state; it appends 0x20 whatever the shift and writes nothing else. -/
def Obligations.SpaceAppendsBlank : Prop :=
  ∀ s : State, exec .dataSpace s = .next { s with buf := s.buf ++ [(s.buf.length, 0x20#8)] }

/-- R70: REMAP completes in every state and for every Int; it puts `(shift + delta) mod 26` into `shift` and writes
nothing else, so no appended symbol is translated again. -/
def Obligations.RemapMovesShiftOnly : Prop :=
  ∀ (s : State) (delta : Int), ∃ x : Fin 26,
    exec (.remap delta) s = .next { s with shift := x } ∧
    (x.val : Int) = ((s.shift.val : Int) + delta) % 26

/-- R71: END completes in every state; it writes nothing of shift and buf; the loop stops with cause END and hands
out the buffer once; the lines after it are never taken. That the state reached has no step is R81 (decision D11);
that having none is the fault `stopped` is the model's (log 5). -/
def Obligations.EndStopsAndHandsOutBuffer : Prop :=
  ∀ s : State, ∃ t : State, exec .endFrame s = .next t ∧
    t = { s with run := .stopped, cause := .endFrame, out := s.out ++ [.finished (render s)] } ∧
    step t = .fault .stopped

/-- R72 (one report and no sticky bit: decision D17): a malformed line completes in every state; it changes nothing
of the state and emits `Err(1, sub)`. -/
def Obligations.MalformedReportsOnly : Prop :=
  ∀ (s : State) (sub : MalformedClass),
    exec (.malformed sub) s = .next { s with out := s.out ++ [.err .malformedFrame sub] } ∧
    ErrorCode.malformedFrame.code = 1

/-- Frame of the storing forms DATA and DATA.SPACE (R68, R69, R26): nothing but the buffer changes, and in it no
address but `len(buf)` before the frame, where the one byte is stored. -/
def Obligations.AppendingFramesLeaveTheRest : Prop :=
  ∀ (i : Instr) (s t : State), exec i s = .next t → ((∃ c, i = .data c) ∨ i = .dataSpace) →
    (t.shift = s.shift ∧ t.run = s.run ∧ t.cause = s.cause ∧ t.idle = s.idle ∧ t.parser = s.parser ∧
      t.emptyPollLimit = s.emptyPollLimit ∧ t.input = s.input ∧ t.freeTaken = s.freeTaken ∧ t.out = s.out) ∧
    ∀ a, a ≠ Memory.len s.buf → Memory.read t.buf a = Memory.read s.buf a

/-- Frame of the forms that store nothing (R70, R71, R72): every address reads as before, for REMAP nothing changes
but `shift`, for END nothing but `run`, `cause` and the events, for a malformed line nothing but the events. -/
def Obligations.NonStoringFramesLeaveTheRest : Prop :=
  ∀ (i : Instr) (s t : State), exec i s = .next t → (∀ c, i ≠ .data c) → i ≠ .dataSpace →
    (∀ a, Memory.read t.buf a = Memory.read s.buf a) ∧
    t.idle = s.idle ∧ t.parser = s.parser ∧ t.emptyPollLimit = s.emptyPollLimit ∧ t.input = s.input ∧
    t.freeTaken = s.freeTaken ∧
    ((∀ delta, i ≠ .remap delta) → t.shift = s.shift) ∧
    (i ≠ .endFrame → t.run = s.run ∧ t.cause = s.cause) ∧
    (i ≠ .endFrame → (∀ sub, i ≠ .malformed sub) → t.out = s.out)

/-- R73: the ContinueSignal is stop for the line `END` and continue for every other line, malformed ones included;
a line stops a RUNNING machine exactly when its signal is stop. -/
def Obligations.OnlyEndSignalsStop : Prop :=
  (∀ l : Line, continueSignal (decode l) = .stop ↔ l = [0x45#8, 0x4E#8, 0x44#8]) ∧
  (∀ (l : Line) (s t : State), s.run = .running → onLine l s = .next t →
    (t.run = .stopped ↔ continueSignal (decode l) = .stop))

/-- R74: two calls with the same line and the same shift make the same change: the same new shift, the same bytes
appended, and, for every line but `END` (whose `Finished` the loop emits), the same events. -/
def Obligations.DispatchDependsOnLineAndShift : Prop :=
  ∀ (i : Instr) (s₁ s₂ t₁ t₂ : State), s₁.shift = s₂.shift →
    exec i s₁ = .next t₁ → exec i s₂ = .next t₂ →
    t₁.shift = t₂.shift ∧
    (∃ added, render t₁ = render s₁ ++ added ∧ render t₂ = render s₂ ++ added) ∧
    (i ≠ .endFrame → ∃ evs, t₁.out = s₁.out ++ evs ∧ t₂.out = s₂.out ++ evs)

/-- R117: a REMAP acts on every DATA frame after it and on none before it, the very next one included. From any
RUNNING state, with any lines but `END` on both sides: the lines before it are mapped as if it were not there, the
lines after it under a shift moved by its delta; so are they with the REMAP left out, but for that delta. -/
def Obligations.RemapActsOnLaterDataOnly : Prop :=
  ∀ (s : State) (before after : List Line) (remapLine : Line) (delta : Int),
    s.run = .running → decode remapLine = .remap delta → (∀ l ∈ before ++ after, decode l ≠ .endFrame) →
    ∃ t u : State,
      runResponses ((before ++ remapLine :: after).map Resp.line) s = .next t ∧
      runResponses ((before ++ after).map Resp.line) s = .next u ∧
      render t = render s ++ Spec.messageFrom s.shift.val before ++
        Spec.messageFrom (s.shift.val + Spec.deltaSum before + delta) after ∧
      render u = render s ++ Spec.messageFrom s.shift.val before ++
        Spec.messageFrom (s.shift.val + Spec.deltaSum before) after

/-- R75: from reset, lines among which no `END` occurs leave the machine RUNNING with one byte per DATA line, in
line order, each the `map` of its symbol under the sum of the deltas before it modulo 26; malformed lines
contribute nothing. -/
def Obligations.AppendOrderLaw : Prop :=
  ∀ (limit : Option PollLimit) (ls : List Line), (∀ l ∈ ls, decode l ≠ .endFrame) →
    ∃ t : State, runResponses (ls.map Resp.line) (State.resetWith limit) = .next t ∧
      t.run = .running ∧ render t = Spec.messageOf ls ∧
      (t.shift.val : Int) = Spec.deltaSum ls % 26

/-! ### The loop -/

/-- R76, R77, R51: when the next response is a line, the step is the meaning of the decoded line, run on the state
with that response taken and `idle` cleared. -/
def Obligations.StepRunsDecodedLine : Prop :=
  ∀ (s : State) (l : Line) (rest : List Resp), s.run = .running → s.input = .line l :: rest →
    step s = exec (decode l) { s with input := rest, idle := 0 }

/-- U8: where no response has been placed, the step is that of some response, taken from the free stream: the
model's choice of representing the transport (log 3). -/
def Obligations.StepOnFreeResponse : Prop :=
  ∀ s : State, s.run = .running → s.input = [] →
    step s = respond (Config.freeResponse s.freeTaken) { s with freeTaken := s.freeTaken + 1 }

/-- R104: a malformed line changes `idle` only, emits `Err(1, sub)`, and the step ends with the machine RUNNING. -/
def Obligations.MalformedLineStep : Prop :=
  ∀ (s : State) (l : Line) (rest : List Resp) (sub : MalformedClass),
    s.run = .running → s.input = .line l :: rest → decode l = .malformed sub →
    step s = .next { s with input := rest, idle := 0, out := s.out ++ [.err .malformedFrame sub] }

/-- R78 (the N-th poll stops, counted in `idle`: decision D13): `NoData` counts one empty poll and stops with cause
IDLE exactly when the count reaches the limit; with no limit it never stops. -/
def Obligations.NoDataCountsAndStopsAtLimit : Prop :=
  ∀ (s : State) (rest : List Resp), s.run = .running → s.input = .noData :: rest →
    (s.emptyPollLimit = none → step s = .next { s with input := rest, idle := s.idle + 1 }) ∧
    (∀ limit, s.emptyPollLimit = some limit → s.idle + 1 < limit.n →
      step s = .next { s with input := rest, idle := s.idle + 1 }) ∧
    (∀ limit, s.emptyPollLimit = some limit → limit.n ≤ s.idle + 1 →
      step s = .next { s with
        input := rest, idle := s.idle + 1, run := .stopped, cause := .idle,
        out := s.out ++ [.finished (render s)] })

/-- R79 (the recorded cause is decision D30): end-of-stream has the effect of END on shift, buf and run and the
same `Finished` event; only the cause differs. -/
def Obligations.ExhaustedStopsLikeEnd : Prop :=
  ∀ (s : State) (rest : List Resp), s.run = .running → s.input = .exhausted :: rest →
    step s = .next { s with
      input := rest, run := .stopped, cause := .exhausted, out := s.out ++ [.finished (render s)] } ∧
    ∃ t, exec .endFrame { s with input := rest } = .next t ∧ step s = .next { t with cause := .exhausted }

/-- R80 (`Finished` then `Fail`: decision D17): a transport failure stops at once, hands out what the buffer holds,
then surfaces the failure; shift, buf and idle keep their values. -/
def Obligations.FailureStopsAndSurfaces : Prop :=
  ∀ (s : State) (rest : List Resp), s.run = .running → s.input = .failure :: rest →
    step s = .next { s with
      input := rest, run := .stopped, cause := .failure, out := s.out ++ [.finished (render s), .fail] }

/-- R81, U12 (decision D11): a STOPPED machine has no step and takes no response, at either grain. -/
def Obligations.StoppedHasNoStep : Prop :=
  ∀ s : State, s.run = .stopped →
    step s = .fault .stopped ∧ (∀ e, serialStep e s = .fault .stopped) ∧
    ∀ rs, runResponses rs s = .next s

/-- R83: `stop(c)` sets run and cause, hands out the buffer as it is now, and clears neither shift nor buf. -/
def Obligations.StopSetsRunAndCause : Prop :=
  ∀ (c : Cause) (s : State),
    stopWith c s = { s with run := .stopped, cause := c, out := s.out ++ [.finished (render s)] } ∧
    (stopWith c s).buf = s.buf ∧ (stopWith c s).shift = s.shift

/-- U8, R76: every RUNNING state has a defined step: no response and no line ends in a fault or a refusal. -/
def Obligations.EveryRunningStateSteps : Prop :=
  ∀ s : State, s.run = .running → ∃ t, step s = .next t

/-- R125, R73, R78 to R80: a step stops the machine only on `END`, on end-of-stream, on a failure, or on an empty
poll that reaches the limit, and each of them does stop it, with its own cause. -/
def Obligations.OnlyTheseResponsesStop : Prop :=
  ∀ (s t : State) (r : Resp) (rest : List Resp), s.run = .running → s.cause = .none → s.input = r :: rest →
    step s = .next t →
    (t.cause = .endFrame ↔ r = .line [0x45#8, 0x4E#8, 0x44#8]) ∧
    (t.cause = .exhausted ↔ r = .exhausted) ∧
    (t.cause = .failure ↔ r = .failure) ∧
    (t.cause = .idle ↔ r = .noData ∧ ∃ limit, s.emptyPollLimit = some limit ∧ limit.n ≤ s.idle + 1) ∧
    (t.run = .stopped ↔ t.cause ≠ .none)

/-- R24 (c), R13, R36: in every step the buffer keeps every byte it has and gains at most one at the end. The rest
is the model's choice of where these things stand: that the response taken leaves the input queue (log 3), that the
limit is a field no step writes (log 1, R19), and that the line-level step leaves the byte-serial parser's registers
as they are (log 6). -/
def Obligations.StepIsAppendOnly : Prop :=
  ∀ s t : State, step s = .next t →
    AppendOnly s t ∧ (∀ a, a ≠ Memory.len s.buf → Memory.read t.buf a = Memory.read s.buf a) ∧
    t.input = s.input.tail ∧ t.emptyPollLimit = s.emptyPollLimit ∧ t.parser = s.parser

/-- R24, R82, R121 at reset, for every configuration. -/
def Obligations.InvariantAtReset : Prop :=
  ∀ limit : Option PollLimit, Inv (State.resetWith limit)

/-- R24 (b) to (g), R16, R82, R83, R121: every step keeps the invariant, from every state that has it; once STOPPED,
the one `Finished` emitted carries the buffer. -/
def Obligations.StepKeepsInvariant : Prop :=
  ∀ s t : State, Inv s → step s = .next t → Inv t

/-- The byte-serial step keeps the same invariant (R94, R24; the realisation is decision D21). -/
def Obligations.SerialStepKeepsInvariant : Prop :=
  ∀ (e : InEv) (s t : State), Inv s → serialStep e s = .next t → Inv t

/-- R82, R83: every step adds one `Finished` if it stops the machine and none if it does not, and the one it adds
carries the buffer as it then is; so along any run from reset `Finished` is emitted at most once, and exactly once,
with the final buffer, if the run has stopped. -/
def Obligations.FinishedExactlyOncePerRun : Prop :=
  (∀ s t : State, step s = .next t →
    finishedCount t = finishedCount s + (if t.run = .stopped then 1 else 0) ∧
    (t.run = .stopped → Event.finished (render t) ∈ t.out.drop s.out.length)) ∧
  (∀ (limit : Option PollLimit) (rs : List Resp) (t : State),
    runResponses rs (State.resetWith limit) = .next t →
    (t.run = .running → finishedCount t = 0) ∧
    (t.run = .stopped → finishedCount t = 1 ∧ Event.finished (render t) ∈ t.out))

/-- R85 (which poll stops is decision D13): without a limit any number of empty polls leaves the machine RUNNING;
with the limit N a machine that has counted `idle < N` polls is RUNNING until the count reaches N and STOPPED
with cause IDLE then. -/
def Obligations.EmptyPollsEndOnlyUnderALimit : Prop :=
  ∀ (s : State) (k : Nat), s.run = .running →
    (s.emptyPollLimit = none →
      ∃ t, runResponses (List.replicate k .noData) s = .next t ∧ t.run = .running ∧ t.idle = s.idle + k) ∧
    (∀ limit, s.emptyPollLimit = some limit → s.idle < limit.n →
      ∃ t, runResponses (List.replicate k .noData) s = .next t ∧
        (s.idle + k < limit.n → t.run = .running ∧ t.idle = s.idle + k) ∧
        (limit.n ≤ s.idle + k → t.run = .stopped ∧ t.cause = .idle ∧ t.idle = limit.n))

/-- R17, R120, R97: from a state whose count of empty polls is 0, a malformed line in front of any stream adds its
one report `Err(1, sub)` and changes nothing else of what the stream does: the tuple of R10 it ends in and the events
it emits are those of the stream alone. -/
def Obligations.MalformedLineLeavesNoTrace : Prop :=
  ∀ (s : State) (l : Line) (sub : MalformedClass) (rs : List Resp),
    s.run = .running → s.idle = 0 → decode l = .malformed sub →
    ∃ (t u : State) (emitted : List Event),
      runResponses (.line l :: rs) s = .next t ∧ runResponses rs s = .next u ∧
      archTuple t = archTuple u ∧ u.out = s.out ++ emitted ∧
      t.out = s.out ++ [.err .malformedFrame sub] ++ emitted

/-- R84: a run over responses placed in the input is a run of `step`: the first response of the run is the response
the step takes. -/
def Obligations.RunFollowsTheStep : Prop :=
  ∀ (s : State) (r : Resp) (rs rest : List Resp), s.run = .running → s.input = r :: rest →
    ∃ t : State, step s = .next t ∧
      runResponses (r :: rs) { s with input := rest } = runResponses rs t

/-! ### The byte-serial parser -/

/-- R94 (the realisation is decision D21): from START, whatever the other registers hold, the characters of a line
lead to the end-of-line frame that `parse` gives, a REMAP's delta reduced modulo 26. -/
def Obligations.SerialParserAgreesWithDecoder : Prop :=
  ∀ (l : Line) (p : Parser), p.ps = .start →
    eolFrame (l.foldl (fun q b => charStep b q) p) = Spec.residual (decode l)

/-- R94 (the realisation is decision D21): for a RUNNING machine with its parser at START, the events of a response
have the effect of the response on the tuple of R10 and on the events emitted, and leave the parser at START. -/
def Obligations.SerialRunRefinesLineStep : Prop :=
  ∀ (s : State) (r : Resp), s.run = .running → s.parser.ps = .start →
    ∃ t u : State, runSerial (eventsOf r) s = .next t ∧ respond r s = .next u ∧
      archTuple t = archTuple u ∧ t.out = u.out ∧ t.parser.ps = .start

/-- R92 (decision D21): after `M,`, an optional `-` and digits the rotation applied at end of line is the residue of
the numeral's value, and it turns the rotor as the whole delta does. -/
def Obligations.SerialResidueEqualsDelta : Prop :=
  ∀ (p : Parser) (d : List Byte), p.ps = .start → d ≠ [] → Spec.AllDigits d →
    ((eolResidue (([0x4D#8, 0x2C#8] ++ d).foldl (fun q b => charStep b q) p)).val : Int) =
      (Spec.decimalValue d : Int) % 26 ∧
    ((eolResidue (([0x4D#8, 0x2C#8, 0x2D#8] ++ d).foldl (fun q b => charStep b q) p)).val : Int) =
      (-(Spec.decimalValue d : Int)) % 26 ∧
    ∀ s : State, rotate ((Spec.decimalValue d : Int) % 26) s = rotate (Spec.decimalValue d : Int) s

/-- R91, R78 to R80 (decisions D21, D13, D17), wherever in a line the parser is: `NoData` changes nothing of the
parser and counts one empty poll, stopping with cause IDLE exactly at the limit; end-of-stream and failure drop the
partial line, with nothing dispatched or reported for it, put the parser at START, leave `idle` as it is, and stop
as at a line boundary. -/
def Obligations.PartialLineIsDropped : Prop :=
  ∀ s : State, s.run = .running →
    (s.emptyPollLimit = none → serialStep .noData s = .next { s with idle := s.idle + 1 }) ∧
    (∀ limit, s.emptyPollLimit = some limit → s.idle + 1 < limit.n →
      serialStep .noData s = .next { s with idle := s.idle + 1 }) ∧
    (∀ limit, s.emptyPollLimit = some limit → limit.n ≤ s.idle + 1 →
      serialStep .noData s = .next { s with
        idle := s.idle + 1, run := .stopped, cause := .idle, out := s.out ++ [.finished (render s)] }) ∧
    serialStep .exhausted s = .next { s with
      parser := { s.parser with ps := .start }, run := .stopped, cause := .exhausted,
      out := s.out ++ [.finished (render s)] } ∧
    serialStep .failure s = .next { s with
      parser := { s.parser with ps := .start }, run := .stopped, cause := .failure,
      out := s.out ++ [.finished (render s), .fail] }

/-- R86, R88: a character touches nothing but the parser's registers. -/
def Obligations.CharacterTouchesParserOnly : Prop :=
  ∀ (s : State) (b : Byte), s.run = .running →
    serialStep (.char b) s = .next { s with parser := charStep b s.parser }

/-! ### Platform -/

/-- R102 (decision D20): a failure is never masked, end-of-stream goes before a line, a line before an empty poll,
and nothing is taken only when nothing is presented. -/
def Obligations.SimultaneousConditionsPriority : Prop :=
  ∀ (failure exhausted noData : Bool) (line : Option Line),
    (failure = true → arbitrate failure exhausted line noData = some .failure) ∧
    (failure = false → exhausted = true → arbitrate failure exhausted line noData = some .exhausted) ∧
    (failure = false → exhausted = false → ∀ l, line = some l →
      arbitrate failure exhausted line noData = some (.line l)) ∧
    (failure = false → exhausted = false → line = none →
      arbitrate failure exhausted line noData = if noData then some .noData else none)

/-- R34, U3 (decision D10): without a capacity the step is unchanged; with one, a DATA or DATA.SPACE line at a full
buffer is refused (by the model's name `bufferFull`, log 8), and every other response at a full buffer, every
response below it, and a STOPPED machine step as they do without one. -/
def Obligations.FullBufferRefusesData : Prop :=
  (∀ s : State, stepWithCapacity none s = step s) ∧
  (∀ (s : State) (n : Nat) (l : Line), s.run = .running → (takeResponse s).1 = .line l →
    ((∃ c, decode l = .data c) ∨ decode l = .dataSpace) → n ≤ Memory.len s.buf →
    stepWithCapacity (some n) s = .refused .bufferFull) ∧
  (∀ (s : State) (n : Nat), n ≤ Memory.len s.buf →
    (∀ l, (takeResponse s).1 = .line l → (∀ c, decode l ≠ .data c) ∧ decode l ≠ .dataSpace) →
    stepWithCapacity (some n) s = step s) ∧
  (∀ (s : State) (n : Nat), Memory.len s.buf < n → stepWithCapacity (some n) s = step s) ∧
  (∀ (s : State) (cap : Option Nat), s.run = .stopped → stepWithCapacity cap s = step s)

/-- R95 (illustrative ports, decision D27): reset puts the reset state under the limit the configuration ports present
(`cfg_poll_limit` counting only when `cfg_poll_en` is 1), and refuses the limit 0 (U11, log 2); an event is taken only
where `in_valid` and `in_ready` are both 1, and then has the serial step's effect; otherwise the state is held. That
reset wins over an offered event, and that the configuration ports are sampled under reset only, are the model's
choices (log 15). -/
def Obligations.PortCycleTakesOneEvent : Prop :=
  (∀ (p : PortsIn) (s : State), p.rst = true → p.cfgPollEn = false → cycle p s = .next (s.applyResetWith none)) ∧
  (∀ (p : PortsIn) (s : State) (limit : PollLimit), p.rst = true → p.cfgPollEn = true → p.cfgPollLimit = limit.n →
    cycle p s = .next (s.applyResetWith (some limit))) ∧
  (∀ (p : PortsIn) (s : State), p.rst = true → p.cfgPollEn = true → p.cfgPollLimit = 0 →
    cycle p s = .refused .illegalPollLimit) ∧
  (∀ (p : PortsIn) (s : State), p.rst = false → (p.inValid = false ∨ s.run = .stopped) →
    cycle p s = .next s) ∧
  (∀ (p : PortsIn) (s : State), p.rst = false → p.inValid = true → s.run = .running →
    (p.inKind = 0 → cycle p s = serialStep (.char p.inByte) s) ∧
    (p.inKind = 1 → cycle p s = serialStep .eol s) ∧
    (p.inKind = 2 → cycle p s = serialStep .noData s) ∧
    (p.inKind = 3 → cycle p s = serialStep .exhausted s) ∧
    (p.inKind = 4 → cycle p s = serialStep .failure s))
end

