-- ==== Sys2Proof/Laws/Decode.lean ====
section
/-! SUPPORT. The decoder on each prefix, and the digits of a number. -/

namespace Sys2Proof

theorem decode_prefixData (p : List Byte) : decode (0x4C#8 :: 0x2C#8 :: p) = decodeDataPayload p := by
  simp [decode]

theorem decode_prefixRemap (p : List Byte) : decode (0x4D#8 :: 0x2C#8 :: p) = decodeRemapPayload p := by
  simp [decode]

theorem magnitude_append (d : List Byte) (b : Byte) :
    magnitude (d ++ [b]) = 10 * magnitude d + digitValue b := by
  simp [magnitude]

theorem digitByte_toNat {k : Nat} (h : k < 10) : (digitByte k).toNat = 0x30 + k := by
  simp only [digitByte, BitVec.toNat_ofNat]
  omega

theorem isDigit_digitByte {k : Nat} (h : k < 10) : isDigit (digitByte k) = true := by
  simp only [isDigit, digitByte_toNat h, Bool.and_eq_true, decide_eq_true_eq]
  omega

theorem digitValue_digitByte {k : Nat} (h : k < 10) : digitValue (digitByte k) = k := by
  simp [digitValue, digitByte_toNat h]

end Sys2Proof
end

