-- ==== Sys2Proof/Laws/State.lean ====
section
/-! SUPPORT. One lemma per field per update of the state, each true by rfl, so that no later proof unfolds a
record update. -/

namespace Sys2Proof.Machine

/-! ### rotate -/

@[simp] theorem rotate_shift (d : Int) (s : State) : (rotate d s).shift = residue ((s.shift.val : Int) + d) := rfl
@[simp] theorem rotate_buf (d : Int) (s : State) : (rotate d s).buf = s.buf := rfl
@[simp] theorem rotate_run (d : Int) (s : State) : (rotate d s).run = s.run := rfl
@[simp] theorem rotate_cause (d : Int) (s : State) : (rotate d s).cause = s.cause := rfl
@[simp] theorem rotate_idle (d : Int) (s : State) : (rotate d s).idle = s.idle := rfl
@[simp] theorem rotate_parser (d : Int) (s : State) : (rotate d s).parser = s.parser := rfl
@[simp] theorem rotate_emptyPollLimit (d : Int) (s : State) : (rotate d s).emptyPollLimit = s.emptyPollLimit := rfl
@[simp] theorem rotate_input (d : Int) (s : State) : (rotate d s).input = s.input := rfl
@[simp] theorem rotate_freeTaken (d : Int) (s : State) : (rotate d s).freeTaken = s.freeTaken := rfl
@[simp] theorem rotate_out (d : Int) (s : State) : (rotate d s).out = s.out := rfl

/-! ### bufAppend -/

@[simp] theorem bufAppend_shift (v : Byte) (s : State) : (bufAppend v s).shift = s.shift := rfl
@[simp] theorem bufAppend_buf (v : Byte) (s : State) : (bufAppend v s).buf = Memory.push s.buf v := rfl
@[simp] theorem bufAppend_run (v : Byte) (s : State) : (bufAppend v s).run = s.run := rfl
@[simp] theorem bufAppend_cause (v : Byte) (s : State) : (bufAppend v s).cause = s.cause := rfl
@[simp] theorem bufAppend_idle (v : Byte) (s : State) : (bufAppend v s).idle = s.idle := rfl
@[simp] theorem bufAppend_parser (v : Byte) (s : State) : (bufAppend v s).parser = s.parser := rfl
@[simp] theorem bufAppend_emptyPollLimit (v : Byte) (s : State) : (bufAppend v s).emptyPollLimit = s.emptyPollLimit := rfl
@[simp] theorem bufAppend_input (v : Byte) (s : State) : (bufAppend v s).input = s.input := rfl
@[simp] theorem bufAppend_freeTaken (v : Byte) (s : State) : (bufAppend v s).freeTaken = s.freeTaken := rfl
@[simp] theorem bufAppend_out (v : Byte) (s : State) : (bufAppend v s).out = s.out := rfl

/-! ### emit -/

@[simp] theorem emit_shift (e : Event) (s : State) : (emit e s).shift = s.shift := rfl
@[simp] theorem emit_buf (e : Event) (s : State) : (emit e s).buf = s.buf := rfl
@[simp] theorem emit_run (e : Event) (s : State) : (emit e s).run = s.run := rfl
@[simp] theorem emit_cause (e : Event) (s : State) : (emit e s).cause = s.cause := rfl
@[simp] theorem emit_idle (e : Event) (s : State) : (emit e s).idle = s.idle := rfl
@[simp] theorem emit_parser (e : Event) (s : State) : (emit e s).parser = s.parser := rfl
@[simp] theorem emit_emptyPollLimit (e : Event) (s : State) : (emit e s).emptyPollLimit = s.emptyPollLimit := rfl
@[simp] theorem emit_input (e : Event) (s : State) : (emit e s).input = s.input := rfl
@[simp] theorem emit_freeTaken (e : Event) (s : State) : (emit e s).freeTaken = s.freeTaken := rfl
@[simp] theorem emit_out (e : Event) (s : State) : (emit e s).out = s.out ++ [e] := rfl

/-! ### clearIdle -/

@[simp] theorem clearIdle_shift (s : State) : (clearIdle s).shift = s.shift := rfl
@[simp] theorem clearIdle_buf (s : State) : (clearIdle s).buf = s.buf := rfl
@[simp] theorem clearIdle_run (s : State) : (clearIdle s).run = s.run := rfl
@[simp] theorem clearIdle_cause (s : State) : (clearIdle s).cause = s.cause := rfl
@[simp] theorem clearIdle_idle (s : State) : (clearIdle s).idle = 0 := rfl
@[simp] theorem clearIdle_parser (s : State) : (clearIdle s).parser = s.parser := rfl
@[simp] theorem clearIdle_emptyPollLimit (s : State) : (clearIdle s).emptyPollLimit = s.emptyPollLimit := rfl
@[simp] theorem clearIdle_input (s : State) : (clearIdle s).input = s.input := rfl
@[simp] theorem clearIdle_freeTaken (s : State) : (clearIdle s).freeTaken = s.freeTaken := rfl
@[simp] theorem clearIdle_out (s : State) : (clearIdle s).out = s.out := rfl

/-! ### countEmptyPoll -/

@[simp] theorem countEmptyPoll_shift (s : State) : (countEmptyPoll s).shift = s.shift := rfl
@[simp] theorem countEmptyPoll_buf (s : State) : (countEmptyPoll s).buf = s.buf := rfl
@[simp] theorem countEmptyPoll_run (s : State) : (countEmptyPoll s).run = s.run := rfl
@[simp] theorem countEmptyPoll_cause (s : State) : (countEmptyPoll s).cause = s.cause := rfl
@[simp] theorem countEmptyPoll_idle (s : State) : (countEmptyPoll s).idle = s.idle + 1 := rfl
@[simp] theorem countEmptyPoll_parser (s : State) : (countEmptyPoll s).parser = s.parser := rfl
@[simp] theorem countEmptyPoll_emptyPollLimit (s : State) : (countEmptyPoll s).emptyPollLimit = s.emptyPollLimit := rfl
@[simp] theorem countEmptyPoll_input (s : State) : (countEmptyPoll s).input = s.input := rfl
@[simp] theorem countEmptyPoll_freeTaken (s : State) : (countEmptyPoll s).freeTaken = s.freeTaken := rfl
@[simp] theorem countEmptyPoll_out (s : State) : (countEmptyPoll s).out = s.out := rfl

/-! ### setParser -/

@[simp] theorem setParser_shift (p : Parser) (s : State) : (setParser p s).shift = s.shift := rfl
@[simp] theorem setParser_buf (p : Parser) (s : State) : (setParser p s).buf = s.buf := rfl
@[simp] theorem setParser_run (p : Parser) (s : State) : (setParser p s).run = s.run := rfl
@[simp] theorem setParser_cause (p : Parser) (s : State) : (setParser p s).cause = s.cause := rfl
@[simp] theorem setParser_idle (p : Parser) (s : State) : (setParser p s).idle = s.idle := rfl
@[simp] theorem setParser_parser (p : Parser) (s : State) : (setParser p s).parser = p := rfl
@[simp] theorem setParser_emptyPollLimit (p : Parser) (s : State) : (setParser p s).emptyPollLimit = s.emptyPollLimit := rfl
@[simp] theorem setParser_input (p : Parser) (s : State) : (setParser p s).input = s.input := rfl
@[simp] theorem setParser_freeTaken (p : Parser) (s : State) : (setParser p s).freeTaken = s.freeTaken := rfl
@[simp] theorem setParser_out (p : Parser) (s : State) : (setParser p s).out = s.out := rfl

/-! ### raiseMalformed -/

@[simp] theorem raiseMalformed_shift (k : MalformedClass) (s : State) : (raiseMalformed k s).shift = s.shift := rfl
@[simp] theorem raiseMalformed_buf (k : MalformedClass) (s : State) : (raiseMalformed k s).buf = s.buf := rfl
@[simp] theorem raiseMalformed_run (k : MalformedClass) (s : State) : (raiseMalformed k s).run = s.run := rfl
@[simp] theorem raiseMalformed_cause (k : MalformedClass) (s : State) : (raiseMalformed k s).cause = s.cause := rfl
@[simp] theorem raiseMalformed_idle (k : MalformedClass) (s : State) : (raiseMalformed k s).idle = s.idle := rfl
@[simp] theorem raiseMalformed_parser (k : MalformedClass) (s : State) : (raiseMalformed k s).parser = s.parser := rfl
@[simp] theorem raiseMalformed_emptyPollLimit (k : MalformedClass) (s : State) : (raiseMalformed k s).emptyPollLimit = s.emptyPollLimit := rfl
@[simp] theorem raiseMalformed_input (k : MalformedClass) (s : State) : (raiseMalformed k s).input = s.input := rfl
@[simp] theorem raiseMalformed_freeTaken (k : MalformedClass) (s : State) : (raiseMalformed k s).freeTaken = s.freeTaken := rfl
@[simp] theorem raiseMalformed_out (k : MalformedClass) (s : State) : (raiseMalformed k s).out = s.out ++ [.err .malformedFrame k] := rfl

/-! ### stopWith -/

@[simp] theorem stopWith_shift (c : Cause) (s : State) : (stopWith c s).shift = s.shift := rfl
@[simp] theorem stopWith_buf (c : Cause) (s : State) : (stopWith c s).buf = s.buf := rfl
@[simp] theorem stopWith_run (c : Cause) (s : State) : (stopWith c s).run = .stopped := rfl
@[simp] theorem stopWith_cause (c : Cause) (s : State) : (stopWith c s).cause = c := rfl
@[simp] theorem stopWith_idle (c : Cause) (s : State) : (stopWith c s).idle = s.idle := rfl
@[simp] theorem stopWith_parser (c : Cause) (s : State) : (stopWith c s).parser = s.parser := rfl
@[simp] theorem stopWith_emptyPollLimit (c : Cause) (s : State) : (stopWith c s).emptyPollLimit = s.emptyPollLimit := rfl
@[simp] theorem stopWith_input (c : Cause) (s : State) : (stopWith c s).input = s.input := rfl
@[simp] theorem stopWith_freeTaken (c : Cause) (s : State) : (stopWith c s).freeTaken = s.freeTaken := rfl
@[simp] theorem stopWith_out (c : Cause) (s : State) : (stopWith c s).out = s.out ++ [.finished (render s)] := rfl

/-! ### onExhausted -/

@[simp] theorem onExhausted_shift (s : State) : (onExhausted s).shift = s.shift := rfl
@[simp] theorem onExhausted_buf (s : State) : (onExhausted s).buf = s.buf := rfl
@[simp] theorem onExhausted_run (s : State) : (onExhausted s).run = .stopped := rfl
@[simp] theorem onExhausted_cause (s : State) : (onExhausted s).cause = .exhausted := rfl
@[simp] theorem onExhausted_idle (s : State) : (onExhausted s).idle = s.idle := rfl
@[simp] theorem onExhausted_parser (s : State) : (onExhausted s).parser = s.parser := rfl
@[simp] theorem onExhausted_emptyPollLimit (s : State) : (onExhausted s).emptyPollLimit = s.emptyPollLimit := rfl
@[simp] theorem onExhausted_input (s : State) : (onExhausted s).input = s.input := rfl
@[simp] theorem onExhausted_freeTaken (s : State) : (onExhausted s).freeTaken = s.freeTaken := rfl
@[simp] theorem onExhausted_out (s : State) : (onExhausted s).out = s.out ++ [.finished (render s)] := rfl

/-! ### onFailure -/

@[simp] theorem onFailure_shift (s : State) : (onFailure s).shift = s.shift := rfl
@[simp] theorem onFailure_buf (s : State) : (onFailure s).buf = s.buf := rfl
@[simp] theorem onFailure_run (s : State) : (onFailure s).run = .stopped := rfl
@[simp] theorem onFailure_cause (s : State) : (onFailure s).cause = .failure := rfl
@[simp] theorem onFailure_idle (s : State) : (onFailure s).idle = s.idle := rfl
@[simp] theorem onFailure_parser (s : State) : (onFailure s).parser = s.parser := rfl
@[simp] theorem onFailure_emptyPollLimit (s : State) : (onFailure s).emptyPollLimit = s.emptyPollLimit := rfl
@[simp] theorem onFailure_input (s : State) : (onFailure s).input = s.input := rfl
@[simp] theorem onFailure_freeTaken (s : State) : (onFailure s).freeTaken = s.freeTaken := rfl
@[simp] theorem onFailure_out (s : State) : (onFailure s).out = s.out ++ [.finished (render s)] ++ [.fail] := rfl

/-! ### Reset -/

@[simp] theorem resetWith_shift (n : Option PollLimit) : (State.resetWith n).shift = 0 := rfl
@[simp] theorem resetWith_buf (n : Option PollLimit) : (State.resetWith n).buf = [] := rfl
@[simp] theorem resetWith_run (n : Option PollLimit) : (State.resetWith n).run = .running := rfl
@[simp] theorem resetWith_cause (n : Option PollLimit) : (State.resetWith n).cause = .none := rfl
@[simp] theorem resetWith_idle (n : Option PollLimit) : (State.resetWith n).idle = 0 := rfl
@[simp] theorem resetWith_parser (n : Option PollLimit) : (State.resetWith n).parser = Parser.reset := rfl
@[simp] theorem resetWith_emptyPollLimit (n : Option PollLimit) : (State.resetWith n).emptyPollLimit = n := rfl
@[simp] theorem resetWith_input (n : Option PollLimit) : (State.resetWith n).input = [] := rfl
@[simp] theorem resetWith_freeTaken (n : Option PollLimit) : (State.resetWith n).freeTaken = 0 := rfl
@[simp] theorem resetWith_out (n : Option PollLimit) : (State.resetWith n).out = [] := rfl
@[simp] theorem applyResetWith_shift (n : Option PollLimit) (s : State) : (s.applyResetWith n).shift = 0 := rfl
@[simp] theorem applyResetWith_buf (n : Option PollLimit) (s : State) : (s.applyResetWith n).buf = [] := rfl
@[simp] theorem applyResetWith_run (n : Option PollLimit) (s : State) : (s.applyResetWith n).run = .running := rfl
@[simp] theorem applyResetWith_cause (n : Option PollLimit) (s : State) : (s.applyResetWith n).cause = .none := rfl
@[simp] theorem applyResetWith_idle (n : Option PollLimit) (s : State) : (s.applyResetWith n).idle = 0 := rfl
@[simp] theorem applyResetWith_parser (n : Option PollLimit) (s : State) : (s.applyResetWith n).parser = Parser.reset := rfl
@[simp] theorem applyResetWith_emptyPollLimit (n : Option PollLimit) (s : State) : (s.applyResetWith n).emptyPollLimit = n := rfl
@[simp] theorem applyResetWith_input (n : Option PollLimit) (s : State) : (s.applyResetWith n).input = s.input := rfl
@[simp] theorem applyResetWith_freeTaken (n : Option PollLimit) (s : State) : (s.applyResetWith n).freeTaken = s.freeTaken := rfl
@[simp] theorem applyResetWith_out (n : Option PollLimit) (s : State) : (s.applyResetWith n).out = [] := rfl
@[simp] theorem parser_reset_ps : Parser.reset.ps = .start := rfl

end Sys2Proof.Machine
end

