-- ==== Sys2Proof/Laws/Ops.lean ====
section
/-! SUPPORT. What each shared operation does, said once: the residue, the alphabet ROM and `map`, the buffer,
the meanings of the frames, the action on a signal. -/

namespace Sys2Proof.Machine

/-! ### Residues -/

theorem residue_val (x : Int) : ((residue x).val : Int) = x % 26 := by
  have h : 0 ≤ x % 26 ∧ x % 26 < 26 := by omega
  have : (x % 26).toNat < 26 := by omega
  simp only [residue, Fin.ofNat, Nat.mod_eq_of_lt this]
  omega

theorem fin26_ext {a b : Fin 26} (h : ((a.val : Nat) : Int) = (b.val : Int)) : a = b :=
  Fin.ext (by omega)

theorem residue_val_self (a : Fin 26) : residue (a.val : Int) = a :=
  fin26_ext (by rw [residue_val]; omega)

theorem residue_congr {x y : Int} (h : x % 26 = y % 26) : residue x = residue y :=
  fin26_ext (by rw [residue_val, residue_val, h])

/-! ### The alphabet ROM and `map` -/

theorem alpha_toNat : ∀ i : Fin 26, (alpha i).toNat = 0x41 + i.val := by decide

theorem alphabeticPosition_upper {b : Byte} (h : isUpper b = true) :
    alphabeticPosition b = some (Fin.ofNat 26 (b.toNat - 0x41)) := by
  simp [alphabeticPosition, h]

theorem alphabeticPosition_lower {b : Byte} (h : isLower b = true) :
    alphabeticPosition b = some (Fin.ofNat 26 (b.toNat - 0x61)) := by
  have : isUpper b = false := by
    simp only [isLower, isUpper, Bool.and_eq_true, decide_eq_true_eq, Bool.and_eq_false_iff,
      decide_eq_false_iff_not] at *
    omega
  simp [alphabeticPosition, h, this]

theorem alphabeticPosition_other {b : Byte} (hu : isUpper b = false) (hl : isLower b = false) :
    alphabeticPosition b = none := by
  simp [alphabeticPosition, hu, hl]

theorem mapSymbol_upper (shift : Fin 26) {b : Byte} (h : isUpper b = true) :
    (mapSymbol shift b).toNat = 0x41 + (b.toNat - 0x41 + shift.val) % 26 := by
  simp [mapSymbol, alphabeticPosition_upper h, alpha_toNat, Fin.ofNat, Nat.mod_add_mod]

theorem mapSymbol_lower (shift : Fin 26) {b : Byte} (h : isLower b = true) :
    (mapSymbol shift b).toNat = 0x41 + (b.toNat - 0x61 + shift.val) % 26 := by
  simp [mapSymbol, alphabeticPosition_lower h, alpha_toNat, Fin.ofNat, Nat.mod_add_mod]

theorem mapSymbol_other (shift : Fin 26) {b : Byte} (hu : isUpper b = false) (hl : isLower b = false) :
    mapSymbol shift b = b := by
  simp [mapSymbol, alphabeticPosition_other hu hl]

/-! ### The buffer -/

@[simp] theorem Memory.len_push (m : Memory) (v : Byte) : (Memory.push m v).len = m.len + 1 := by
  simp [Memory.push, Memory.len]

@[simp] theorem Memory.bytes_push (m : Memory) (v : Byte) :
    Memory.bytes (Memory.push m v) = Memory.bytes m ++ [v] := by
  simp [Memory.push, Memory.bytes]

@[simp] theorem Memory.length_bytes (m : Memory) : (Memory.bytes m).length = Memory.len m := by
  simp [Memory.bytes, Memory.len]

theorem Memory.wf_iff {m : Memory} : Memory.wf m = true ↔ m.map Prod.fst = List.range m.length := by
  simp [Memory.wf]

@[simp] theorem Memory.wf_nil : Memory.wf [] = true := rfl

/-- `BufAppend`, the buffer's only write, keeps the canonical form. -/
theorem Memory.wf_push {m : Memory} (h : Memory.wf m = true) (v : Byte) :
    Memory.wf (Memory.push m v) = true := by
  rw [Memory.wf_iff] at *
  simp [Memory.push, Memory.len, List.range_succ, h]

theorem Memory.read_push_of_ne (m : Memory) (v : Byte) {a : Nat} (h : a ≠ Memory.len m) :
    Memory.read (Memory.push m v) a = Memory.read m a := by
  simp only [Memory.read, Memory.push, List.lookup_append]
  have : List.lookup a [(Memory.len m, v)] = none := by
    simp [List.lookup, beq_eq_false_iff_ne.mpr h]
  simp [this]

theorem Memory.wf_ofBytes (bs : List Byte) : Memory.wf (Memory.ofBytes bs) = true := by
  have step : ∀ (bs : List Byte) (m : Memory), Memory.wf m = true →
      Memory.wf (bs.foldl Memory.push m) = true := by
    intro bs
    induction bs with
    | nil => exact fun _ h => h
    | cons b bs ih => exact fun m h => ih _ (Memory.wf_push h b)
  exact step bs [] Memory.wf_nil

theorem Memory.bytes_ofBytes (bs : List Byte) : Memory.bytes (Memory.ofBytes bs) = bs := by
  have step : ∀ (bs : List Byte) (m : Memory),
      Memory.bytes (bs.foldl Memory.push m) = Memory.bytes m ++ bs := by
    intro bs
    induction bs with
    | nil => simp
    | cons b bs ih => intro m; simp [ih]
  simpa [Memory.bytes, Memory.ofBytes] using step bs []

/-- In a canonical buffer the byte at an address is the byte at that index of the rendered sequence. -/
theorem Memory.read_eq_bytes {m : Memory} (h : Memory.wf m = true) (a : Nat) :
    Memory.read m a = (Memory.bytes m)[a]? := by
  induction m using List.reverseRecOn with
  | nil => rfl
  | append_singleton m c ih =>
    obtain ⟨k, v⟩ := c
    have h' : Memory.wf m = true ∧ k = m.length := by
      simp only [Memory.wf_iff, List.map_append, List.map_cons, List.map_nil, List.length_append, List.length_cons,
        List.length_nil, List.range_succ] at h
      simpa [Memory.wf_iff] using List.append_inj' h (by simp)
    obtain ⟨hm, rfl⟩ := h'
    have hp : m ++ [(m.length, v)] = Memory.push m v := rfl
    rw [hp, Memory.bytes_push]
    by_cases ha : a = Memory.len m
    · subst ha
      have hn : Memory.read m (Memory.len m) = none := by rw [ih hm]; simp
      simp only [Memory.read] at hn
      simp [Memory.read, Memory.push, List.lookup_append, hn, List.lookup]
    · rw [Memory.read_push_of_ne m v ha, ih hm]
      rcases Nat.lt_or_gt_of_ne ha with hlt | hgt
      · rw [List.getElem?_append_left (by simpa using hlt)]
      · rw [List.getElem?_eq_none (by simp; omega), List.getElem?_eq_none (by simp; omega)]

@[simp] theorem render_bufAppend (v : Byte) (s : State) : render (bufAppend v s) = render s ++ [v] := by
  simp [render]

/-! ### Signals, meanings -/

@[simp] theorem actOnSignal_goOn (s : State) : actOnSignal .goOn s = s := rfl

@[simp] theorem actOnSignal_stop (s : State) : actOnSignal .stop s = stopWith .endFrame s := rfl

theorem exec_data (c : Byte) (s : State) :
    exec (.data c) s = .next (bufAppend (mapSymbol s.shift c) s) := rfl

theorem exec_dataSpace (s : State) :
    exec .dataSpace s = .next (bufAppend (mapSymbol s.shift spaceSymbol) s) := rfl

theorem exec_remap (delta : Int) (s : State) : exec (.remap delta) s = .next (rotate delta s) := rfl

theorem exec_endFrame (s : State) : exec .endFrame s = .next (stopWith .endFrame s) := rfl

theorem exec_malformed (sub : MalformedClass) (s : State) :
    exec (.malformed sub) s = .next (raiseMalformed sub s) := rfl

/-- The state an instruction leads to. -/
def execResult (i : Instr) (s : State) : State :=
  match exec i s with
  | .next t => t
  | .fault _ => s
  | .refused _ => s

@[simp] theorem execResult_data (c : Byte) (s : State) :
    execResult (.data c) s = bufAppend (mapSymbol s.shift c) s := rfl
@[simp] theorem execResult_dataSpace (s : State) :
    execResult .dataSpace s = bufAppend (mapSymbol s.shift spaceSymbol) s := rfl
@[simp] theorem execResult_remap (delta : Int) (s : State) :
    execResult (.remap delta) s = rotate delta s := rfl
@[simp] theorem execResult_endFrame (s : State) : execResult .endFrame s = stopWith .endFrame s := rfl
@[simp] theorem execResult_malformed (sub : MalformedClass) (s : State) :
    execResult (.malformed sub) s = raiseMalformed sub s := rfl

/-- Everything `exec` can do: it always answers the next state `execResult`. -/
theorem exec_eq (i : Instr) (s : State) : exec i s = .next (execResult i s) := by
  cases i <;> rfl

/-! ### Configuration -/

@[simp] theorem checkLimit_none : checkLimit none = .ok none := rfl

/-- A legal limit stands for itself. -/
@[simp] theorem checkLimit_some (limit : PollLimit) : checkLimit (some limit.n) = .ok (some limit) := by
  simp [checkLimit, limit.pos]

@[simp] theorem checkLimit_zero : checkLimit (some 0) = .error .illegalPollLimit := rfl

end Sys2Proof.Machine
end

