-- ==== Sys2Proof/Laws/PerInstr.lean ====
section
/-! SUPPORT. Statements about every constructor of `Instr`, one lemma per constructor.
`EncodedLength`: R41's lengths by frame kind, of the encoder's lines. -/

namespace Sys2Proof.Laws.EncodedLength

/-- DATA 3 bytes, DATA.SPACE 7, REMAP 3 or more, END 3, and a malformed line has none of its own (R41). -/
def Statement : Instr → Prop
  | .data c => (encode (.data c)).length = 3
  | .dataSpace => (encode .dataSpace).length = 7
  | .remap delta => 3 ≤ (encode (.remap delta)).length
  | .endFrame => (encode .endFrame).length = 3
  | .malformed sub => 2 ≤ (encode (.malformed sub)).length

theorem data (c : Byte) : Statement (.data c) := rfl

theorem dataSpace : Statement .dataSpace := rfl

theorem digitsBefore_length (fuel n : Nat) (acc : List Byte) :
    acc.length ≤ (digitsBefore fuel n acc).length := by
  induction fuel generalizing n acc with
  | zero => exact Nat.le_refl _
  | succ fuel ih =>
    unfold digitsBefore
    split
    · simp
    · exact Nat.le_trans (by simp) (ih _ _)

theorem decimalDigits_length (n : Nat) : 1 ≤ (decimalDigits n).length := by
  unfold decimalDigits digitsBefore
  split
  · simp
  · exact Nat.le_trans (by simp) (digitsBefore_length _ _ _)

theorem remap (delta : Int) : Statement (.remap delta) := by
  have h := decimalDigits_length delta.natAbs
  simp only [Statement, encode, numeral]
  split <;> simp only [List.length_append, List.length_cons, List.length_nil] <;> omega

theorem endFrame : Statement .endFrame := rfl

theorem malformed (sub : MalformedClass) : Statement (.malformed sub) := by
  cases sub <;> simp [Statement, encode, malformedExample]

end Sys2Proof.Laws.EncodedLength
end

