-- ==== Sys2Proof/Laws/Step.lean ====
section
/-! SUPPORT. What a step can do, said once: the response taken, the effect of each response, and the cases of a
step that answers a next state. -/

namespace Sys2Proof.Machine

theorem takeResponse_cons {s : State} {r : Resp} {rest : List Resp} (h : s.input = r :: rest) :
    takeResponse s = (r, { s with input := rest }) := by
  simp [takeResponse, h]

theorem takeResponse_nil {s : State} (h : s.input = []) :
    takeResponse s = (Config.freeResponse s.freeTaken, { s with freeTaken := s.freeTaken + 1 }) := by
  simp [takeResponse, h]

@[simp] theorem takeResponse_shift (s : State) : (takeResponse s).2.shift = s.shift := by
  unfold takeResponse; split <;> rfl
@[simp] theorem takeResponse_buf (s : State) : (takeResponse s).2.buf = s.buf := by
  unfold takeResponse; split <;> rfl
@[simp] theorem takeResponse_run (s : State) : (takeResponse s).2.run = s.run := by
  unfold takeResponse; split <;> rfl
@[simp] theorem takeResponse_cause (s : State) : (takeResponse s).2.cause = s.cause := by
  unfold takeResponse; split <;> rfl
@[simp] theorem takeResponse_idle (s : State) : (takeResponse s).2.idle = s.idle := by
  unfold takeResponse; split <;> rfl
@[simp] theorem takeResponse_parser (s : State) : (takeResponse s).2.parser = s.parser := by
  unfold takeResponse; split <;> rfl
@[simp] theorem takeResponse_emptyPollLimit (s : State) :
    (takeResponse s).2.emptyPollLimit = s.emptyPollLimit := by
  unfold takeResponse; split <;> rfl
@[simp] theorem takeResponse_input (s : State) : (takeResponse s).2.input = s.input.tail := by
  unfold takeResponse; split <;> simp_all
@[simp] theorem takeResponse_out (s : State) : (takeResponse s).2.out = s.out := by
  unfold takeResponse; split <;> rfl

/-- The state a response leads to. -/
def respondResult (r : Resp) (s : State) : State :=
  match respond r s with
  | .next t => t
  | .fault _ => s
  | .refused _ => s

@[simp] theorem respondResult_line (l : Line) (s : State) :
    respondResult (.line l) s = execResult (decode l) (clearIdle s) := by
  simp [respondResult, respond, onLine, exec_eq]
@[simp] theorem respondResult_noData (s : State) : respondResult .noData s = onNoData s := rfl
@[simp] theorem respondResult_exhausted (s : State) : respondResult .exhausted s = onExhausted s := rfl
@[simp] theorem respondResult_failure (s : State) : respondResult .failure s = onFailure s := rfl

/-- Everything `respond` can do. -/
theorem respond_eq (r : Resp) (s : State) : respond r s = .next (respondResult r s) := by
  cases r <;> simp [respond, onLine, exec_eq]

theorem step_running {s : State} (h : s.run = .running) :
    step s = respond (takeResponse s).1 (takeResponse s).2 := by
  simp [step, h]

theorem step_stopped {s : State} (h : s.run = .stopped) : step s = .fault .stopped := by
  simp [step, h]

/-- A step that answers a next state ran in a RUNNING state, on one response. -/
theorem step_next {s t : State} (h : step s = .next t) :
    s.run = .running ∧ t = respondResult (takeResponse s).1 (takeResponse s).2 := by
  cases hr : s.run with
  | stopped => simp [step_stopped hr] at h
  | running =>
    rw [step_running hr, respond_eq] at h
    exact ⟨rfl, (Host.Outcome.next.inj h).symm⟩

theorem pollLimitReached_none {s : State} (h : s.emptyPollLimit = none) : pollLimitReached s = false := by
  simp [pollLimitReached, limitReached, h]

theorem pollLimitReached_some {s : State} {limit : PollLimit} (h : s.emptyPollLimit = some limit) :
    pollLimitReached s = true ↔ limit.n ≤ s.idle := by
  simp [pollLimitReached, limitReached, h]

/-- The limit is read through the configuration and the count alone. -/
@[simp] theorem pollLimitReached_countEmptyPoll (s : State) :
    pollLimitReached (countEmptyPoll s) = limitReached s.emptyPollLimit (s.idle + 1) := rfl

@[simp] theorem limitReached_none (k : Nat) : limitReached none k = false := rfl

@[simp] theorem limitReached_some (limit : PollLimit) (k : Nat) :
    limitReached (some limit) k = decide (limit.n ≤ k) := rfl

/-- What an empty poll does: it counts, and stops where the limit is reached. -/
theorem onNoData_cases (s : State) :
    (pollLimitReached (countEmptyPoll s) = true ∧ onNoData s = stopWith .idle (countEmptyPoll s)) ∨
    (pollLimitReached (countEmptyPoll s) = false ∧ onNoData s = countEmptyPoll s) := by
  cases h : pollLimitReached (countEmptyPoll s) <;> simp [onNoData, h]

@[simp] theorem onNoData_shift (s : State) : (onNoData s).shift = s.shift := by
  rcases onNoData_cases s with ⟨_, h⟩ | ⟨_, h⟩ <;> rw [h] <;> rfl
@[simp] theorem onNoData_buf (s : State) : (onNoData s).buf = s.buf := by
  rcases onNoData_cases s with ⟨_, h⟩ | ⟨_, h⟩ <;> rw [h] <;> rfl
@[simp] theorem onNoData_idle (s : State) : (onNoData s).idle = s.idle + 1 := by
  rcases onNoData_cases s with ⟨_, h⟩ | ⟨_, h⟩ <;> rw [h] <;> rfl
@[simp] theorem onNoData_parser (s : State) : (onNoData s).parser = s.parser := by
  rcases onNoData_cases s with ⟨_, h⟩ | ⟨_, h⟩ <;> rw [h] <;> rfl
@[simp] theorem onNoData_emptyPollLimit (s : State) : (onNoData s).emptyPollLimit = s.emptyPollLimit := by
  rcases onNoData_cases s with ⟨_, h⟩ | ⟨_, h⟩ <;> rw [h] <;> rfl
@[simp] theorem onNoData_input (s : State) : (onNoData s).input = s.input := by
  rcases onNoData_cases s with ⟨_, h⟩ | ⟨_, h⟩ <;> rw [h] <;> rfl
@[simp] theorem onNoData_freeTaken (s : State) : (onNoData s).freeTaken = s.freeTaken := by
  rcases onNoData_cases s with ⟨_, h⟩ | ⟨_, h⟩ <;> rw [h] <;> rfl

/-- A run takes one response at a time. -/
theorem runResponses_cons {s : State} (h : s.run = .running) (r : Resp) (rs : List Resp) :
    runResponses (r :: rs) s = runResponses rs (respondResult r s) := by
  simp [runResponses, h, respond_eq]

theorem runResponses_stopped {s : State} (h : s.run = .stopped) (rs : List Resp) :
    runResponses rs s = .next s := by
  cases rs <;> simp [runResponses, h]

/-- A run over two sequences is the run over the first, then the run over the second. -/
theorem runResponses_append {rs : List Resp} {s t : State} (h : runResponses rs s = .next t) (rs' : List Resp) :
    runResponses (rs ++ rs') s = runResponses rs' t := by
  induction rs generalizing s with
  | nil => obtain rfl := Host.Outcome.next.inj h; rfl
  | cons r rs ih =>
    cases hr : s.run with
    | stopped =>
      rw [runResponses_stopped hr] at h ⊢
      obtain rfl := Host.Outcome.next.inj h
      exact (runResponses_stopped hr rs').symm
    | running =>
      rw [runResponses_cons hr] at h
      rw [List.cons_append, runResponses_cons hr]
      exact ih h

end Sys2Proof.Machine
end

