-- ==== Sys2Proof/Laws/Ports.lean ====
section
/-! SUPPORT. What the two steps around the loop can do, said once: a port cycle, and the step under a finite
capacity. -/

namespace Sys2Proof.Machine

theorem cycle_reset {p : PortsIn} (h : p.rst = true) (s : State) : cycle p s = resetCycle p s := by
  simp [cycle, h]

/-- A cycle that is not a reset takes the event offered to a RUNNING machine. -/
theorem cycle_event {p : PortsIn} (h : p.rst = false) {s : State} (hv : p.inValid = true) (hr : s.run = .running)
    {e : InEv} (he : inEvent p.inKind p.inByte = .ok e) : cycle p s = serialStep e s := by
  simp [cycle, h, inReady, hv, hr, he]

/-- A cycle that is not a reset holds the state where no event is offered or the machine is not ready. -/
theorem cycle_hold {p : PortsIn} (h : p.rst = false) {s : State} (hv : (p.inValid && inReady s) = false) :
    cycle p s = .next s := by
  simp [cycle, h, hv]

/-- Under a capacity the step refuses a line that appends to a full buffer of a RUNNING machine, and is `step`
otherwise. -/
theorem stepWithCapacity_eq (cap : Option Nat) (s : State) :
    stepWithCapacity cap s =
      if s.run = .running ∧ bufferFull cap s = true ∧ respAppends (takeResponse s).1 = true then
        .refused .bufferFull
      else step s := by
  cases h : s.run <;> simp [stepWithCapacity, h]

theorem respAppends_line (l : Line) :
    respAppends (.line l) = true ↔ (∃ c, decode l = .data c) ∨ decode l = .dataSpace := by
  cases h : decode l <;> simp [respAppends, appends, h]

end Sys2Proof.Machine
end

