-- ==== Sys2Proof/Laws/Safety.lean ====
section
/-! SUPPORT. The number of `Finished` events under each operation, and the invariant under the updates that no
clause of it reads. -/

namespace Sys2Proof

open Machine

@[simp] theorem isFinished_finished (seq : List Byte) : isFinished (.finished seq) = true := rfl
@[simp] theorem isFinished_err (c : ErrorCode) (k : MalformedClass) : isFinished (.err c k) = false := rfl
@[simp] theorem isFinished_fail : isFinished .fail = false := rfl

@[simp] theorem finishedCount_stopWith (c : Cause) (s : State) :
    finishedCount (stopWith c s) = finishedCount s + 1 := by
  simp [finishedCount, List.countP_append]

@[simp] theorem finishedCount_raiseMalformed (k : MalformedClass) (s : State) :
    finishedCount (raiseMalformed k s) = finishedCount s := by
  simp [finishedCount, List.countP_append]

@[simp] theorem finishedCount_emit_fail (s : State) : finishedCount (emit .fail s) = finishedCount s := by
  simp [finishedCount, List.countP_append]

theorem finishedCount_congr {s t : State} (h : t.out = s.out) : finishedCount t = finishedCount s := by
  simp [finishedCount, h]

/-- No clause of the invariant reads the parser, the input or the free counter. -/
theorem inv_congr {s t : State} (h : Inv s) (hb : t.buf = s.buf) (hr : t.run = s.run) (hc : t.cause = s.cause)
    (hi : t.idle = s.idle) (hl : t.emptyPollLimit = s.emptyPollLimit) (ho : t.out = s.out) : Inv t where
  buf_wf := hb ▸ h.buf_wf
  no_lower := hb ▸ h.no_lower
  cause_none := by rw [hc, hr]; exact h.cause_none
  idle_lt := by rw [hl, hr, hi]; exact h.idle_lt
  idle_le := by rw [hl, hi]; exact h.idle_le
  finished_not_yet := by rw [hr, finishedCount_congr ho]; exact h.finished_not_yet
  finished_once := by rw [hr, finishedCount_congr ho]; exact h.finished_once
  finished_buffer := by rw [hr, render, hb, ho]; exact h.finished_buffer

end Sys2Proof
end

