-- ==== Sys2Proof/Tests/Slice0.lean ====
section
/-! SUPPORT. Tests. Expected values are those of spec/95_test_vectors.md (S1 to S4, V-ROT, V-MAP, V-PARSE, V-FRAME,
V-LOOP, V-FSM), of R47, R52 and R53; then one witness per statement that has hypotheses. -/

namespace Sys2Proof.Tests

open Machine

/-! ### Well-formedness smoke test (R42) -/

theorem test_wellFormed_frames :
    (Instr.data 0xFF).wellFormed = true ∧ Instr.dataSpace.wellFormed = true ∧
    (Instr.remap (-29)).wellFormed = true ∧ Instr.endFrame.wellFormed = true := by decide

/-- The check refuses a line that is no frame, of every class. -/
theorem test_wellFormed_refuses_malformed :
    (Instr.malformed .unrecognized).wellFormed = false ∧ (Instr.malformed .missingPayload).wellFormed = false ∧
    (Instr.malformed .badDataPayload).wellFormed = false ∧ (Instr.malformed .nonNumeric).wellFormed = false := by
  decide

/-! ### Decoding: words written out from R43 to R47 -/

/-- V-PARSE 1, 2, 4, 5, 6, 7, 8: `L,H`, `L,S`, `L,` blank, `L,,`, `L,L`, `L,a`, `L,` 0xFF. -/
theorem test_decode_data :
    decode [0x4C, 0x2C, 0x48] = .data 0x48 ∧ decode [0x4C, 0x2C, 0x53] = .data 0x53 ∧
    decode [0x4C, 0x2C, 0x20] = .data 0x20 ∧ decode [0x4C, 0x2C, 0x2C] = .data 0x2C ∧
    decode [0x4C, 0x2C, 0x4C] = .data 0x4C ∧ decode [0x4C, 0x2C, 0x61] = .data 0x61 ∧
    decode [0x4C, 0x2C, 0xFF] = .data 0xFF := by decide

/-- V-PARSE 3: `L,Space`. -/
theorem test_decode_space : decode [0x4C, 0x2C, 0x53, 0x70, 0x61, 0x63, 0x65] = .dataSpace := by decide

/-- V-PARSE 17 to 22: `M,2`, `M,-2`, `M,0`, `M,-0`, `M,007`, `M,00026`. -/
theorem test_decode_remap :
    decode [0x4D, 0x2C, 0x32] = .remap 2 ∧ decode [0x4D, 0x2C, 0x2D, 0x32] = .remap (-2) ∧
    decode [0x4D, 0x2C, 0x30] = .remap 0 ∧ decode [0x4D, 0x2C, 0x2D, 0x30] = .remap 0 ∧
    decode [0x4D, 0x2C, 0x30, 0x30, 0x37] = .remap 7 ∧
    decode [0x4D, 0x2C, 0x30, 0x30, 0x30, 0x32, 0x36] = .remap 26 := by decide

/-- V-ROT 15, P7 row 8: `M,1` and thirty zeros is Remap(10^30). -/
theorem test_decode_remap_unbounded :
    decode ([0x4D, 0x2C, 0x31] ++ List.replicate 30 0x30) = .remap 1000000000000000000000000000000 := by decide

/-- V-PARSE 34: `END`. -/
theorem test_decode_end : decode [0x45, 0x4E, 0x44] = .endFrame := by decide

/-- V-PARSE 35 to 47, UNRECOGNIZED: `END` blank, `end`, `ENDX`, `EN`, `END` CR, empty, `L`, `M`, `X,?`, `l,A`, `m,2`,
`L;A`, blank `L,A`. -/
theorem test_decode_unrecognized :
    (([[0x45, 0x4E, 0x44, 0x20], [0x65, 0x6E, 0x64], [0x45, 0x4E, 0x44, 0x58], [0x45, 0x4E],
       [0x45, 0x4E, 0x44, 0x0D], [], [0x4C], [0x4D], [0x58, 0x2C, 0x3F], [0x6C, 0x2C, 0x41], [0x6D, 0x2C, 0x32],
       [0x4C, 0x3B, 0x41], [0x20, 0x4C, 0x2C, 0x41]] : List Line).all
      (fun l => decode l == .malformed .unrecognized)) = true := by decide

/-- V-PARSE 9, 24, MISSING_PAYLOAD: `L,`, `M,`. -/
theorem test_decode_missing :
    decode [0x4C, 0x2C] = .malformed .missingPayload ∧ decode [0x4D, 0x2C] = .malformed .missingPayload := by decide

/-- V-PARSE 10 to 16, 48, BAD_DATA_PAYLOAD: `L,AB`, `L,Spac`, `L,Spacee`, `L,space`, `L,SPACE`, `L,Sp`,
`L,O,L,R,L,L,L,D`, `L,A` CR. -/
theorem test_decode_badData :
    (([[0x4C, 0x2C, 0x41, 0x42], [0x4C, 0x2C, 0x53, 0x70, 0x61, 0x63],
       [0x4C, 0x2C, 0x53, 0x70, 0x61, 0x63, 0x65, 0x65], [0x4C, 0x2C, 0x73, 0x70, 0x61, 0x63, 0x65],
       [0x4C, 0x2C, 0x53, 0x50, 0x41, 0x43, 0x45], [0x4C, 0x2C, 0x53, 0x70],
       [0x4C, 0x2C, 0x4F, 0x2C, 0x4C, 0x2C, 0x52, 0x2C, 0x4C, 0x2C, 0x4C, 0x2C, 0x4C, 0x2C, 0x44],
       [0x4C, 0x2C, 0x41, 0x0D]] : List Line).all
      (fun l => decode l == .malformed .badDataPayload)) = true := by decide

/-- V-PARSE 25 to 33, NON_NUMERIC: `M,-`, `M,+2`, `M,2` blank, `M,` blank `2`, `M,2x`, `M,--2`, `M,2-`, `M,1.5`, `M,END`. -/
theorem test_decode_nonNumeric :
    (([[0x4D, 0x2C, 0x2D], [0x4D, 0x2C, 0x2B, 0x32], [0x4D, 0x2C, 0x32, 0x20], [0x4D, 0x2C, 0x20, 0x32],
       [0x4D, 0x2C, 0x32, 0x78], [0x4D, 0x2C, 0x2D, 0x2D, 0x32], [0x4D, 0x2C, 0x32, 0x2D],
       [0x4D, 0x2C, 0x31, 0x2E, 0x35], [0x4D, 0x2C, 0x45, 0x4E, 0x44]] : List Line).all
      (fun l => decode l == .malformed .nonNumeric)) = true := by decide

/-- The encoder spells `M,-29` and `M,0` (V-FSM 6, V-PARSE 19). -/
theorem test_encode_remap :
    encode (.remap (-29)) = [0x4D, 0x2C, 0x2D, 0x32, 0x39] ∧ encode (.remap 0) = [0x4D, 0x2C, 0x30] ∧
    encode (.remap 1000) = [0x4D, 0x2C, 0x31, 0x30, 0x30, 0x30] := by decide

/-- R47: the line the encoder gives for a malformed class is of that class. -/
theorem test_encode_malformed (k : MalformedClass) : decode (encode (.malformed k)) = .malformed k := by
  cases k <;> decide

/-- R53's match words, read as the table numbers them; the REMAP row is completed with the digit 0 (log 9). -/
theorem test_table_words :
    decodeTableWord 24 0x4C2C00 = some (.data 0x00) ∧ decodeTableWord 24 0x4C2C41 = some (.data 0x41) ∧
    decodeTableWord 56 0x4C2C5370616365 = some .dataSpace ∧ decodeTableWord 16 0x4D2C = some (.remap 0) ∧
    decodeTableWord 24 0x4D2C32 = some (.remap 2) ∧ decodeTableWord 24 0x454E44 = some .endFrame ∧
    decodeTableWord 0 0x0 = some (.malformed .unrecognized) := by decide

/-! ### The rotor -/

/-- V-ROT 3, 6, 9, 13, 14, 16, 18. -/
theorem test_rotate :
    residue (0 + -2) = 24 ∧ residue (5 + 52) = 5 ∧ residue (3 + -29) = 0 ∧ residue (7 + 2147483647) = 4 ∧
    residue (7 + -2147483648) = 9 ∧ residue (-1000000000000000000000000000000) = 12 ∧ residue (25 + 25) = 24 := by
  decide

/-- V-MAP 1, 3, 8, 9, 11, 13 to 16, 19. -/
theorem test_map :
    mapSymbol 2 0x41 = 0x43 ∧ mapSymbol 2 0x59 = 0x41 ∧ mapSymbol 2 0x77 = 0x59 ∧ mapSymbol 25 0x7A = 0x59 ∧
    mapSymbol 25 0x5A = 0x59 ∧ mapSymbol 2 0x40 = 0x40 ∧ mapSymbol 2 0x5B = 0x5B ∧ mapSymbol 2 0x60 = 0x60 ∧
    mapSymbol 2 0x7B = 0x7B ∧ mapSymbol 3 0xC1 = 0xC1 := by decide

/-! ### One step -/

/-- A RUNNING state with the given shift, buffer, limit, count and responses. -/
def stateWith (shift : Fin 26) (bytes : List Byte) (limit : Option PollLimit) (idle : Nat) (input : List Resp) :
    State :=
  { State.resetWith limit with shift := shift, buf := Memory.ofBytes bytes, idle := idle, input := input }

/-- What V-FRAME and V-LOOP show of a state: (shift, buf, run, cause, idle) and the events. -/
structure Shown where
  shift : Fin 26
  buf : List Byte
  run : Run
  cause : Cause
  idle : Nat
  out : List Event
  deriving DecidableEq, Repr

/-- What they show of an outcome. -/
def shown (o : Host.Outcome State Fault Refusal) : Option Shown :=
  match o with
  | .next t => some ⟨t.shift, render t, t.run, t.cause, t.idle, t.out⟩
  | .fault _ => none
  | .refused _ => none

/-- The pulses of a cycle from `s` that ends in the outcome. -/
def pulsesFrom (s : State) (o : Host.Outcome State Fault Refusal) : Option PortPulses :=
  match o with
  | .next t => some (portPulses s t)
  | .fault _ => none
  | .refused _ => none

/-- The limit 3 of V-LOOP and P4. -/
def three : PollLimit := ⟨3, by decide⟩

/-- The limit 1 of V-LOOP 6. -/
def one : PollLimit := ⟨1, by decide⟩

/-- V-FRAME 1: (2, "HOL"), `L,A` gives (2, "HOLC"). -/
theorem test_step_data :
    shown (step (stateWith 2 [0x48, 0x4F, 0x4C] none 3 [.line [0x4C, 0x2C, 0x41]])) =
      some ⟨2, [0x48, 0x4F, 0x4C, 0x43], .running, .none, 0, []⟩ := by decide

/-- V-FRAME 5: (7, "X"), `L,Space` gives (7, "X "). -/
theorem test_step_space :
    shown (step (stateWith 7 [0x58] none 0 [.line [0x4C, 0x2C, 0x53, 0x70, 0x61, 0x63, 0x65]])) =
      some ⟨7, [0x58, 0x20], .running, .none, 0, []⟩ := by decide

/-- V-FRAME 10: (0, "Q"), `M,-2` gives (24, "Q"). -/
theorem test_step_remap :
    shown (step (stateWith 0 [0x51] none 0 [.line [0x4D, 0x2C, 0x2D, 0x32]])) =
      some ⟨24, [0x51], .running, .none, 0, []⟩ := by decide

/-- V-LOOP 10: (4, "HO"), `END` stops with cause END and `Finished("HO")`. -/
theorem test_step_end :
    shown (step (stateWith 4 [0x48, 0x4F] none 0 [.line [0x45, 0x4E, 0x44]])) =
      some ⟨4, [0x48, 0x4F], .stopped, .endFrame, 0, [.finished [0x48, 0x4F]]⟩ := by decide

/-- V-FRAME 17: (2, "HOLC"), `M,2x` changes nothing and reports Err(1, 4). -/
theorem test_step_malformed :
    shown (step (stateWith 2 [0x48] (some three) 2 [.line [0x4D, 0x2C, 0x32, 0x78]])) =
      some ⟨2, [0x48], .running, .none, 0, [.err .malformedFrame .nonNumeric]⟩ ∧
    subCode .nonNumeric = 4 := by decide

/-- V-LOOP 3, 4, 5, 6: empty polls without a limit, below it, and at it. -/
theorem test_step_noData :
    shown (step (stateWith 0 [0x48] none 1000 [.noData])) = some ⟨0, [0x48], .running, .none, 1001, []⟩ ∧
    shown (step (stateWith 0 [0x48] (some three) 1 [.noData])) = some ⟨0, [0x48], .running, .none, 2, []⟩ ∧
    shown (step (stateWith 0 [0x48] (some three) 2 [.noData])) =
      some ⟨0, [0x48], .stopped, .idle, 3, [.finished [0x48]]⟩ ∧
    shown (step (stateWith 0 [] (some one) 0 [.noData])) =
      some ⟨0, [], .stopped, .idle, 1, [.finished []]⟩ := by decide

/-- V-LOOP 8, 9: end-of-stream and failure. -/
theorem test_step_exhausted_failure :
    shown (step (stateWith 4 [0x48, 0x49] none 0 [.exhausted])) =
      some ⟨4, [0x48, 0x49], .stopped, .exhausted, 0, [.finished [0x48, 0x49]]⟩ ∧
    shown (step (stateWith 4 [0x48, 0x4F] none 2 [.failure])) =
      some ⟨4, [0x48, 0x4F], .stopped, .failure, 2, [.finished [0x48, 0x4F], .fail]⟩ := by decide

/-- V-LOOP 11: a STOPPED machine has no step. -/
theorem test_step_stopped :
    step { stateWith 4 [0x48, 0x4F] none 0 [.line [0x4C, 0x2C, 0x51]] with run := .stopped, cause := .endFrame } =
      .fault .stopped := by rfl

/-- R22, D25: the status view and `BufRead` at the last address and one past it. -/
theorem test_bufRead :
    (bufRead 1 (stateWith 0 [0x48, 0x49] none 0 [])).toOption = some 0x49 ∧
    (bufRead 2 (stateWith 0 [0x48, 0x49] none 0 [])).toOption = none ∧
    statusView (stateWith 4 [0x48, 0x49] none 0 []) = ⟨4, 2, .running, .none⟩ := by decide

/-! ### The byte-serial parser -/

/-- The registers after the characters of a line from START with stale registers. -/
def registersAfter (l : Line) : Parser :=
  l.foldl (fun q b => charStep b q) { ps := .start, c := 0x7F, neg := true, acc := 25 }

/-- V-FSM 1, 3, 4, 5: `L,A`, `L,Space`, `L,Spac`, `L,Tp`. -/
theorem test_fsm_data :
    (registersAfter [0x4C, 0x2C, 0x41]).ps = .l1 ∧ (registersAfter [0x4C, 0x2C, 0x41]).c = 0x41 ∧
    (registersAfter [0x4C, 0x2C, 0x53, 0x70, 0x61, 0x63, 0x65]).ps = .space ∧
    (registersAfter [0x4C, 0x2C, 0x53, 0x70, 0x61, 0x63]).ps = .sp4 ∧
    (registersAfter [0x4C, 0x2C, 0x54, 0x70]).ps = .badD := by decide

/-- V-FSM 6, 7, 8: the accumulator and residue of `M,-29`, `M,1000`, `M,-0`. -/
theorem test_fsm_remap :
    (registersAfter [0x4D, 0x2C, 0x2D, 0x32, 0x39]).acc = 3 ∧
    eolResidue (registersAfter [0x4D, 0x2C, 0x2D, 0x32, 0x39]) = 23 ∧
    (registersAfter [0x4D, 0x2C, 0x31, 0x30, 0x30, 0x30]).acc = 12 ∧
    eolResidue (registersAfter [0x4D, 0x2C, 0x31, 0x30, 0x30, 0x30]) = 12 ∧
    eolResidue (registersAfter [0x4D, 0x2C, 0x2D, 0x30]) = 0 := by decide

/-- V-FSM 9 to 15: the states at `Eol`. -/
theorem test_fsm_other :
    (registersAfter [0x4D, 0x2C, 0x2D]).ps = .mneg ∧ (registersAfter [0x4D, 0x2C, 0x32, 0x78, 0x37]).ps = .badN ∧
    (registersAfter [0x45, 0x4E, 0x44]).ps = .end3 ∧ (registersAfter [0x45, 0x4E, 0x44, 0x58]).ps = .badU ∧
    (registersAfter []).ps = .start ∧ (registersAfter [0x4C, 0x2C]).ps = .lc ∧
    (registersAfter [0x58, 0x2C, 0x3F]).ps = .badU := by decide

/-- R95: the pulses of the cycle that ends `L,A` under shift 2 show the appended `C`; those of `END` show `done`. -/
theorem test_port_pulses :
    pulsesFrom (stateWith 2 [0x48] none 0 [])
      (serialStep .eol { stateWith 2 [0x48] none 0 [] with parser := registersAfter [0x4C, 0x2C, 0x41] }) =
      some ⟨some 0x43, none, false, false⟩ ∧
    pulsesFrom (stateWith 2 [0x48] none 0 [])
      (serialStep .eol { stateWith 2 [0x48] none 0 [] with parser := registersAfter [0x45, 0x4E, 0x44] }) =
      some ⟨none, none, true, false⟩ := by decide

/-- The state of the witnesses: shift 2, buffer "HO", two polls counted of a limit of three, RUNNING, one line to come. -/
def w (r : Resp) : State := stateWith 2 [0x48, 0x4F] (some three) 2 [r]

/-- The same, STOPPED. -/
def wStopped : State := { w .noData with run := .stopped, cause := .endFrame, out := [.finished [0x48, 0x4F]] }

/-- Ports that offer no event, with the given reset and configuration. -/
def portsWith (rst pollEn : Bool) (limit : Nat) : PortsIn :=
  { rst := rst, inValid := false, inKind := 0, inByte := 0, cfgPollEn := pollEn, cfgPollLimit := limit }

/-- R95, R116: a reset cycle takes the limit the configuration ports present, from a machine that had another one
and was STOPPED. -/
theorem test_port_configuration :
    cycle (portsWith true true 1) wStopped = .next { State.resetWith (some one) with input := [.noData] } ∧
    cycle (portsWith true false 1) wStopped = .next { State.resetWith none with input := [.noData] } :=
  ⟨by rfl, by rfl⟩

/-! ### The host's placement: the next step runs the table word as the first line after reset -/

theorem test_withFetchWord :
    shown (step (State.reset.withFetchWord 24 0x4C2C41)) = some ⟨0, [0x41], .running, .none, 0, []⟩ ∧
    shown (step (State.reset.withFetchWord 56 0x4C2C5370616365)) = some ⟨0, [0x20], .running, .none, 0, []⟩ ∧
    shown (step (State.reset.withFetchWord 24 0x4D2C32)) = some ⟨2, [], .running, .none, 0, []⟩ ∧
    shown (step (State.reset.withFetchWord 24 0x454E44)) =
      some ⟨0, [], .stopped, .endFrame, 0, [.finished []]⟩ ∧
    shown (step (State.reset.withFetchWord 0 0)) =
      some ⟨0, [], .running, .none, 0, [.err .malformedFrame .unrecognized]⟩ := by decide

/-! ### Witnesses: a concrete state and operands that meet the hypotheses of each statement -/

theorem witness_RotateAddsDeltaModulo26 :
    exec (.data 0x41) (w .noData) = .next (bufAppend 0x43 (w .noData)) ∧
    ∀ delta, Instr.data 0x41 ≠ .remap delta := ⟨by rfl, fun _ h => by cases h⟩

/-- One boundary letter of each case and the two bytes beside each range. -/
theorem witness_AlphabeticPositionOfLetters :
    (0x41 ≤ (0x41#8).toNat ∧ (0x5A#8).toNat ≤ 0x5A) ∧ (0x61 ≤ (0x61#8).toNat ∧ (0x7A#8).toNat ≤ 0x7A) ∧
    ¬ Spec.Letter 0x40 ∧ ¬ Spec.Letter 0x5B ∧ ¬ Spec.Letter 0x60 ∧ ¬ Spec.Letter 0x7B := by
  unfold Spec.Letter; decide

theorem witness_RotationsSummingTo26kAreIdentity :
    ([2, -30, 54] : List Int).sum % 26 = 0 ∧ State.reset.shift = 0 := by decide

theorem witness_NonLettersPassThrough : ¬ Spec.Letter 0x2C := by unfold Spec.Letter; decide

theorem witness_MapPermutesUpperCase :
    isUpper 0x41 = true ∧ isUpper 0x5A = true ∧ mapSymbol 2 0x41 = mapSymbol 2 0x41 := by decide

theorem witness_RotorIsNotDegenerate :
    State.reset.shift = 0 ∧ (25 : Fin 26) ≠ 0 ∧ isUpper 0x5A = true := by decide

theorem witness_AppendWritesOneByteAtLen :
    Memory.wf (w .noData).buf = true ∧ (0 ≠ Memory.len (w .noData).buf) ∧
    exec (.remap 1) (w .noData) = .next (rotate 1 (w .noData)) := ⟨by decide, by decide, by rfl⟩

/-- The last address, and the first past the end. -/
theorem witness_RenderAndReadTheBuffer :
    Memory.wf (w .noData).buf = true ∧ 1 < (render (w .noData)).length ∧ Memory.len (w .noData).buf ≤ 2 := by decide

theorem witness_OpcodeTableAgreesWithDecoder :
    ∃ r ∈ frameRows, r.fits [0x4C, 0x2C, 0x41] = true := ⟨_, .head _, by decide⟩

theorem witness_DecodeEncodeRoundTrip : (Instr.remap (-29)).wellFormed = true := by decide

theorem witness_DataAppendsMappedSymbol : ¬ Spec.Letter 0x35 ∧ isLower 0x61 = true ∧ isLower 0x7A = true := by
  unfold Spec.Letter; decide

theorem witness_AppendingFramesLeaveTheRest :
    exec (.data 0x41) (w .noData) = .next (bufAppend 0x43 (w .noData)) ∧
    exec .dataSpace (w .noData) = .next (bufAppend 0x20 (w .noData)) ∧
    1 ≠ Memory.len (w .noData).buf := ⟨by rfl, by rfl, by decide⟩

theorem witness_NonStoringFramesLeaveTheRest :
    exec (.remap 3) (w .noData) = .next (rotate 3 (w .noData)) ∧
    exec .endFrame (w .noData) = .next (stopWith .endFrame (w .noData)) ∧
    exec (.malformed .nonNumeric) (w .noData) = .next (raiseMalformed .nonNumeric (w .noData)) :=
  ⟨by rfl, by rfl, by rfl⟩

theorem witness_OnlyEndSignalsStop :
    (w .noData).run = .running ∧ onLine tokenEnd (w .noData) = .next (stopWith .endFrame (clearIdle (w .noData))) :=
  ⟨by rfl, by rfl⟩

theorem witness_DispatchDependsOnLineAndShift :
    (w .noData).shift = (stateWith 2 [] none 0 []).shift ∧
    exec (.data 0x41) (w .noData) = .next (bufAppend 0x43 (w .noData)) ∧
    exec (.data 0x41) (stateWith 2 [] none 0 []) = .next (bufAppend 0x43 (stateWith 2 [] none 0 [])) :=
  ⟨by rfl, by rfl, by rfl⟩

/-- A DATA before the REMAP; a DATA, a malformed line, a REMAP and a DATA.SPACE after it, none of them `END`. -/
theorem witness_RemapActsOnLaterDataOnly :
    (w .noData).run = .running ∧ decode [0x4D, 0x2C, 0x32] = .remap 2 ∧
    ∀ l ∈ ([[0x4C, 0x2C, 0x41]] ++ [[0x4C, 0x2C, 0x42], [0x58], [0x4D, 0x2C, 0x37], encode .dataSpace] : List Line),
      decode l ≠ .endFrame := by decide

/-- A DATA, a REMAP, a malformed line and a DATA.SPACE, none of them `END`. -/
theorem witness_AppendOrderLaw :
    ∀ l ∈ ([[0x4C, 0x2C, 0x41], [0x4D, 0x2C, 0x32], [0x58], encode .dataSpace] : List Line),
      decode l ≠ .endFrame := by decide

theorem witness_StepRunsDecodedLine :
    (w (.line [0x4C, 0x2C, 0x41])).run = .running ∧
    (w (.line [0x4C, 0x2C, 0x41])).input = .line [0x4C, 0x2C, 0x41] :: [] := by decide

theorem witness_StepOnFreeResponse : State.reset.run = .running ∧ State.reset.input = [] := by decide

theorem witness_MalformedLineStep :
    (w (.line [0x58])).run = .running ∧ (w (.line [0x58])).input = .line [0x58] :: [] ∧
    decode [0x58] = .malformed .unrecognized := by decide

/-- No limit, one short of the limit, and the poll that reaches it. -/
theorem witness_NoDataCountsAndStopsAtLimit :
    ((stateWith 0 [] none 0 [.noData]).run = .running ∧ (stateWith 0 [] none 0 [.noData]).input = .noData :: [] ∧
      (stateWith 0 [] none 0 [.noData]).emptyPollLimit = none) ∧
    ((stateWith 0 [] (some three) 1 [.noData]).emptyPollLimit = some three ∧ 1 + 1 < three.n) ∧
    ((w .noData).emptyPollLimit = some three ∧ three.n ≤ (w .noData).idle + 1) := by decide

theorem witness_ExhaustedStopsLikeEnd :
    (w .exhausted).run = .running ∧ (w .exhausted).input = .exhausted :: [] := by decide

theorem witness_FailureStopsAndSurfaces :
    (w .failure).run = .running ∧ (w .failure).input = .failure :: [] := by decide

theorem witness_StoppedHasNoStep : wStopped.run = .stopped := by decide

theorem witness_EveryRunningStateSteps : (w .noData).run = .running := by decide

theorem witness_OnlyTheseResponsesStop :
    (w .exhausted).run = .running ∧ (w .exhausted).cause = .none ∧ (w .exhausted).input = .exhausted :: [] ∧
    step (w .exhausted) = .next (onExhausted { w .exhausted with input := [] }) := ⟨by rfl, by rfl, by rfl, by rfl⟩

theorem witness_StepIsAppendOnly :
    step (w (.line [0x4C, 0x2C, 0x41])) =
      .next (bufAppend 0x43 (clearIdle { w (.line [0x4C, 0x2C, 0x41]) with input := [] })) := by rfl

/-- The witness state satisfies the invariant: canonical buffer "HO", no lower-case letter, two polls of three. -/
theorem inv_w : Inv (w .noData) where
  buf_wf := by decide
  no_lower := by decide
  cause_none := by decide
  idle_lt := fun limit h _ => by cases h; decide
  idle_le := fun limit h => by cases h; decide
  finished_not_yet := fun _ => by decide
  finished_once := fun h => by cases h
  finished_buffer := fun h => by cases h

theorem witness_StepKeepsInvariant :
    Inv (w .noData) ∧ step (w .noData) = .next (onNoData { w .noData with input := [] }) := ⟨inv_w, by rfl⟩

theorem witness_SerialStepKeepsInvariant :
    Inv (w .noData) ∧
    serialStep (.char 0x4C) (w .noData) = .next (setParser (charStep 0x4C Parser.reset) (w .noData)) :=
  ⟨inv_w, by rfl⟩

/-- A step that stops the machine, and a run from reset that does. -/
theorem witness_FinishedExactlyOncePerRun :
    step (w .exhausted) = .next (onExhausted { w .exhausted with input := [] }) ∧
    (onExhausted { w .exhausted with input := [] }).run = .stopped ∧
    runResponses [.line [0x45, 0x4E, 0x44]] (State.resetWith none) =
      .next (stopWith .endFrame (clearIdle (State.resetWith none))) := ⟨by rfl, by rfl, by rfl⟩

theorem witness_EmptyPollsEndOnlyUnderALimit :
    (stateWith 0 [] none 0 []).run = .running ∧ (stateWith 0 [] none 0 []).emptyPollLimit = none ∧
    (w .noData).run = .running ∧ (w .noData).emptyPollLimit = some three ∧ (w .noData).idle < three.n ∧
    three.n ≤ (w .noData).idle + 1 := by decide

theorem witness_MalformedLineLeavesNoTrace :
    (stateWith 2 [0x48] (some one) 0 []).run = .running ∧ (stateWith 2 [0x48] (some one) 0 []).idle = 0 ∧
    decode [0x4D, 0x2C, 0x32, 0x78] = .malformed .nonNumeric := by decide

theorem witness_RunFollowsTheStep :
    (w .noData).run = .running ∧ (w .noData).input = .noData :: [] := by decide

theorem witness_SerialParserAgreesWithDecoder :
    ({ ps := .start, c := 0x7F, neg := true, acc := 25 } : Parser).ps = .start := by decide

theorem witness_SerialRunRefinesLineStep :
    (w .noData).run = .running ∧ (w .noData).parser.ps = .start := by decide

/-- The digits `29`, and the single digit `0`. -/
theorem witness_SerialResidueEqualsDelta :
    Parser.reset.ps = .start ∧ ([0x32, 0x39] : List Byte) ≠ [] ∧ Spec.AllDigits [0x32, 0x39] ∧
    Spec.AllDigits [0x30] := by
  unfold Spec.AllDigits; decide

/-- A RUNNING machine inside a line: with no limit, one short of the limit, and at the poll that reaches it. -/
theorem witness_PartialLineIsDropped :
    ({ w .noData with parser := registersAfter [0x4C, 0x2C] } : State).run = .running ∧
    ({ w .noData with parser := registersAfter [0x4C, 0x2C] } : State).parser.ps = .lc ∧
    (stateWith 0 [] none 0 []).emptyPollLimit = none ∧
    ((stateWith 0 [] (some three) 1 []).emptyPollLimit = some three ∧ 1 + 1 < three.n) ∧
    ((w .noData).emptyPollLimit = some three ∧ three.n ≤ (w .noData).idle + 1) := by decide

theorem witness_CharacterTouchesParserOnly : (w .noData).run = .running := by decide

/-- Each clause: a failure beside everything, end-of-stream beside a line, a line beside an empty poll, a lone poll. -/
theorem witness_SimultaneousConditionsPriority :
    arbitrate true true (some []) true = some .failure ∧ arbitrate false true (some []) true = some .exhausted ∧
    arbitrate false false (some [0x4C]) true = some (.line [0x4C]) ∧
    arbitrate false false none true = some .noData ∧ arbitrate false false none false = none := by decide

/-- Two symbols held: full at capacity 2, not at capacity 3; at capacity 2 a DATA line, and a REMAP line and an empty
poll, which append nothing; and a STOPPED machine. -/
theorem witness_FullBufferRefusesData :
    (w (.line [0x4C, 0x2C, 0x41])).run = .running ∧
    (takeResponse (w (.line [0x4C, 0x2C, 0x41]))).1 = .line [0x4C, 0x2C, 0x41] ∧
    decode [0x4C, 0x2C, 0x41] = .data 0x41 ∧ 2 ≤ Memory.len (w .noData).buf ∧ Memory.len (w .noData).buf < 3 ∧
    (takeResponse (w (.line [0x4D, 0x2C, 0x32]))).1 = .line [0x4D, 0x2C, 0x32] ∧
    decode [0x4D, 0x2C, 0x32] = .remap 2 ∧ (takeResponse (w .noData)).1 = .noData ∧ wStopped.run = .stopped := by
  decide

/-- Reset without a limit, with the limit 1 and with the limit 0; a cycle with nothing offered; one with an event. -/
theorem witness_PortCycleTakesOneEvent :
    (portsWith true false 0).rst = true ∧ (portsWith true false 0).cfgPollEn = false ∧
    (portsWith true true one.n).cfgPollEn = true ∧ (portsWith true true one.n).cfgPollLimit = 1 ∧
    (portsWith true true 0).cfgPollLimit = 0 ∧
    (portsWith false false 0).rst = false ∧ (portsWith false false 0).inValid = false ∧ wStopped.run = .stopped ∧
    ({ portsWith false false 0 with inValid := true, inKind := 4 } : PortsIn).inKind = 4 ∧
    (w .noData).run = .running := by decide

end Sys2Proof.Tests
end

section
/-! PROOF. The buffer (R26): `BufAppend` writes the one address `len(buf)`, and only the appending frames write the
buffer. -/

namespace Sys2Proof.Machine

/-- A canonical buffer reads back, at the old length, the byte appended to it. -/
theorem Memory.read_push_len {m : Memory} (h : Memory.wf m = true) (v : Byte) :
    Memory.read (Memory.push m v) (Memory.len m) = some v := by
  rw [Memory.read_eq_bytes (Memory.wf_push h v), Memory.bytes_push, ← Memory.length_bytes]
  exact List.getElem?_concat_length

theorem execResult_buf_of_not_appending {i : Instr} (hd : ∀ c, i ≠ .data c) (hs : i ≠ .dataSpace) (s : State) :
    (execResult i s).buf = s.buf := by
  cases i with
  | data c => exact absurd rfl (hd c)
  | dataSpace => exact absurd rfl hs
  | remap delta => simp
  | endFrame => simp
  | malformed sub => simp

/-- Settles O13: the rules of `Memory.push`, and the frame of the instructions that do not append. -/
theorem appendWritesOneByteAtLen : Obligations.AppendWritesOneByteAtLen := by
  refine ⟨fun m v => ⟨Memory.bytes_push m v, Memory.len_push m v, fun _ => Memory.read_push_of_ne m v,
    fun h => ⟨Memory.wf_push h v, Memory.read_push_len h v⟩⟩, ?_⟩
  intro i s t hexec hd hs
  obtain rfl : execResult i s = t := by simpa [exec_eq] using hexec
  exact execResult_buf_of_not_appending hd hs s

end Sys2Proof.Machine
end

section
/-! PROOF. The closed formats of the decoder (R44, R46): which lines decode to the two frames without a field. -/

namespace Sys2Proof

/-! ### What the decoder can answer -/

/-- R43, R44, R47: `Space` first, then one byte, else malformed. -/
theorem decodeDataPayload_cases (p : List Byte) :
    (p = tokenSpace ∧ decodeDataPayload p = .dataSpace) ∨
    (∃ c, p = [c] ∧ decodeDataPayload p = .data c) ∨
    (p = [] ∧ decodeDataPayload p = .malformed .missingPayload) ∨
    (2 ≤ p.length ∧ p ≠ tokenSpace ∧ decodeDataPayload p = .malformed .badDataPayload) := by
  by_cases hspace : p = tokenSpace
  · exact .inl ⟨hspace, by simp [decodeDataPayload, hspace]⟩
  · right
    match p with
    | [] => exact .inr (.inl ⟨rfl, rfl⟩)
    | [c] => exact .inl ⟨c, rfl, by simp [decodeDataPayload]⟩
    | _ :: _ :: _ => exact .inr (.inr ⟨by simp, hspace, by simp [decodeDataPayload, hspace]⟩)

/-- R45, R47: a payload after `M,` gives a REMAP or a malformed line. -/
theorem decodeRemapPayload_remap_or_malformed (p : List Byte) :
    (∃ delta, decodeRemapPayload p = .remap delta) ∨ (∃ k, decodeRemapPayload p = .malformed k) := by
  cases p with
  | nil => exact .inr ⟨_, rfl⟩
  | cons b rest =>
    simp only [decodeRemapPayload]
    generalize (if decide (b = minusSign) = true then rest else b :: rest) = d
    by_cases hbad : (d.isEmpty || !d.all isDigit) = true
    · exact .inr ⟨_, if_pos hbad⟩
    · exact .inl ⟨_, if_neg hbad⟩

/-- R51: the four ways `parse` can take, each with what the line is. -/
theorem decode_cases (l : Line) :
    (∃ p, l = prefixData ++ p ∧ decode l = decodeDataPayload p) ∨
    (∃ p, l = prefixRemap ++ p ∧ decode l = decodeRemapPayload p) ∨
    (l = tokenEnd ∧ decode l = .endFrame) ∨
    (l.take 2 ≠ prefixData ∧ l.take 2 ≠ prefixRemap ∧ l ≠ tokenEnd ∧
      decode l = .malformed .unrecognized) := by
  have hsplit : l.take 2 ++ l.drop 2 = l := List.take_append_drop 2 l
  by_cases hdata : l.take 2 = prefixData
  · exact .inl ⟨l.drop 2, by rw [← hdata, hsplit], by simp only [decode, if_pos hdata]⟩
  by_cases hremap : l.take 2 = prefixRemap
  · exact .inr (.inl ⟨l.drop 2, by rw [← hremap, hsplit], by simp only [decode, if_neg hdata, if_pos hremap]⟩)
  by_cases hend : l = tokenEnd
  · exact .inr (.inr (.inl ⟨hend, by rw [hend]; rfl⟩))
  · exact .inr (.inr (.inr ⟨hdata, hremap, hend,
      by simp only [decode, if_neg hdata, if_neg hremap, if_neg hend]⟩))

/-! ### The lines of the two frames without a field -/

theorem decodeDataPayload_eq_dataSpace_iff (p : List Byte) :
    decodeDataPayload p = .dataSpace ↔ p = tokenSpace := by
  obtain ⟨rfl, h⟩ | ⟨c, rfl, h⟩ | ⟨rfl, h⟩ | ⟨-, hne, h⟩ := decodeDataPayload_cases p
  · simp [h]
  · simp [h]
  · simp [h]
  · simp [h, hne]

theorem decodeDataPayload_ne_endFrame (p : List Byte) : decodeDataPayload p ≠ .endFrame := by
  obtain ⟨-, h⟩ | ⟨c, -, h⟩ | ⟨-, h⟩ | ⟨-, -, h⟩ := decodeDataPayload_cases p <;> simp [h]

theorem decodeRemapPayload_ne_dataSpace (p : List Byte) : decodeRemapPayload p ≠ .dataSpace := by
  obtain ⟨delta, h⟩ | ⟨k, h⟩ := decodeRemapPayload_remap_or_malformed p <;> simp [h]

theorem decodeRemapPayload_ne_endFrame (p : List Byte) : decodeRemapPayload p ≠ .endFrame := by
  obtain ⟨delta, h⟩ | ⟨k, h⟩ := decodeRemapPayload_remap_or_malformed p <;> simp [h]

theorem decode_eq_dataSpace_iff (l : Line) : decode l = .dataSpace ↔ l = prefixData ++ tokenSpace := by
  constructor
  · intro hl
    obtain ⟨p, rfl, h⟩ | ⟨p, -, h⟩ | ⟨-, h⟩ | ⟨-, -, -, h⟩ := decode_cases l
    · rw [(decodeDataPayload_eq_dataSpace_iff p).mp (h.symm.trans hl)]
    · exact absurd (h.symm.trans hl) (decodeRemapPayload_ne_dataSpace p)
    · simp [h] at hl
    · simp [h] at hl
  · rintro rfl
    rfl

theorem decode_eq_endFrame_iff (l : Line) : decode l = .endFrame ↔ l = tokenEnd := by
  constructor
  · intro hl
    obtain ⟨p, -, h⟩ | ⟨p, -, h⟩ | ⟨hend, -⟩ | ⟨-, -, -, h⟩ := decode_cases l
    · exact absurd (h.symm.trans hl) (decodeDataPayload_ne_endFrame p)
    · exact absurd (h.symm.trans hl) (decodeRemapPayload_ne_endFrame p)
    · exact hend
    · simp [h] at hl
  · rintro rfl
    rfl

/-! ### Near misses -/

/-- R47: a payload of two or more bytes after `L,` that is not `Space`. -/
theorem decode_prefixData_badDataPayload {p : List Byte} (hlen : 2 ≤ p.length) (hne : p ≠ tokenSpace) :
    decode (0x4C#8 :: 0x2C#8 :: p) = .malformed .badDataPayload := by
  rw [decode_prefixData]
  obtain ⟨hp, -⟩ | ⟨c, rfl, -⟩ | ⟨rfl, -⟩ | ⟨-, -, h⟩ := decodeDataPayload_cases p
  · exact absurd hp hne
  · simp at hlen
  · simp at hlen
  · exact h

/-- R47: a line whose second byte is no comma has no field, and is END or unrecognized. -/
theorem decode_unrecognized_of_no_comma {a b : Byte} {l : List Byte} (hb : b ≠ 0x2C#8)
    (hne : a :: b :: l ≠ tokenEnd) : decode (a :: b :: l) = .malformed .unrecognized := by
  obtain ⟨p, hp, -⟩ | ⟨p, hp, -⟩ | ⟨hend, -⟩ | ⟨-, -, -, h⟩ := decode_cases (a :: b :: l)
  · simp [hb] at hp
  · simp [hb] at hp
  · exact absurd hend hne
  · exact h

end Sys2Proof

namespace Sys2Proof.Machine

/-- R44: the mapped symbol of DATA.SPACE is the blank's, so the two frames have one effect. -/
theorem exec_dataSpace_eq_data (s : State) : exec .dataSpace s = exec (.data spaceSymbol) s := by
  rw [exec_dataSpace, exec_data]

/-- Settles O17: the line is read off the one way of `decode` that answers DATA.SPACE; each longer near miss is a
payload of two or more bytes that is not `Space`. -/
theorem spaceFormatExact : Obligations.SpaceFormatExact :=
  ⟨decode_eq_dataSpace_iff,
    decode_prefixData_badDataPayload (by decide) (by decide),
    decode_prefixData_badDataPayload (by decide) (by decide),
    decode_prefixData_badDataPayload (by decide) (by decide),
    decode_prefixData_badDataPayload (by decide) (by decide),
    decode_prefixData _,
    exec_dataSpace_eq_data⟩

/-- Settles O19: the line is read off the one way of `decode` that answers END; no near miss has a comma or is `END`. -/
theorem endFormatExact : Obligations.EndFormatExact :=
  ⟨decode_eq_endFrame_iff,
    decode_unrecognized_of_no_comma (by decide) (by decide),
    decode_unrecognized_of_no_comma (by decide) (by decide),
    decode_unrecognized_of_no_comma (by decide) (by decide),
    decode_unrecognized_of_no_comma (by decide) (by decide),
    decode_unrecognized_of_no_comma (by decide) (by decide)⟩

end Sys2Proof.Machine
end

section
/-! PROOF. The rotor (R57, R61 to R63, R66): rotations add up modulo 26 and touch `shift` alone; `map` fixes the
non-letters under every shift, and no upper-case letter under a shift other than 0. -/

namespace Sys2Proof.Machine

/-! ### Rotations add up -/

theorem residue_residue_add (x y : Int) : residue ((residue x).val + y) = residue (x + y) :=
  residue_congr (by rw [residue_val, Int.emod_add_emod])

/-- R57, R64: two rotations are the one by the sum of the deltas. -/
theorem rotate_rotate (a b : Int) (s : State) : rotate b (rotate a s) = rotate (a + b) s := by
  have hshift : residue ((residue (s.shift.val + a)).val + b) = residue (s.shift.val + (a + b)) := by
    rw [residue_residue_add, Int.add_assoc]
  simp [rotate, hshift]

/-- R57, R61: a whole number of turns is no rotation. -/
theorem rotate_eq_self {d : Int} (hd : d % 26 = 0) (s : State) : rotate d s = s := by
  have hshift : residue (s.shift.val + d) = s.shift := by
    rw [residue_congr (y := s.shift.val) (by omega), residue_val_self]
  simp [rotate, hshift]

/-- R61: a sequence of rotations is the one by the sum of its deltas. -/
theorem foldl_rotate (deltas : List Int) (s : State) :
    deltas.foldl (fun u d => rotate d u) s = rotate deltas.sum s := by
  induction deltas generalizing s with
  | nil => exact (rotate_eq_self rfl s).symm
  | cons d ds ih => rw [List.foldl_cons, ih, rotate_rotate, List.sum_cons]

theorem execResult_shift_of_not_remap {i : Instr} (hi : ∀ delta, i ≠ .remap delta) (s : State) :
    (execResult i s).shift = s.shift := by
  cases i with
  | data c => simp
  | dataSpace => simp
  | remap delta => exact absurd rfl (hi delta)
  | endFrame => simp
  | malformed sub => simp

/-! ### `map` on letters and on other bytes -/

theorem isUpper_iff {b : Byte} : isUpper b = true ↔ 0x41 ≤ b.toNat ∧ b.toNat ≤ 0x5A := by
  simp [isUpper]

theorem isLower_iff {b : Byte} : isLower b = true ↔ 0x61 ≤ b.toNat ∧ b.toNat ≤ 0x7A := by
  simp [isLower]

theorem letter_iff {b : Byte} : Spec.Letter b ↔ isUpper b = true ∨ isLower b = true := by
  rw [isUpper_iff, isLower_iff, Spec.Letter]

/-- R66: a shift other than 0 moves every upper-case letter, as less than a whole turn. -/
theorem mapSymbol_upper_ne {shift : Fin 26} (hshift : shift ≠ 0) {b : Byte} (hb : isUpper b = true) :
    mapSymbol shift b ≠ b := by
  intro hfix
  have hval : b.toNat = 0x41 + (b.toNat - 0x41 + shift.val) % 26 := by
    rw [← mapSymbol_upper shift hb, hfix]
  have hpos : shift.val ≠ 0 := Fin.val_ne_zero_iff.mpr hshift
  obtain ⟨hlow, hhigh⟩ := isUpper_iff.mp hb
  omega

/-! ### The statements -/

/-- Settles O4: `shift` gets the residue of the sum, the only field written; no instruction but REMAP writes it. -/
theorem rotateAddsDeltaModulo26 : Obligations.RotateAddsDeltaModulo26 := by
  refine ⟨fun s delta => ⟨residue_val _, rfl⟩, ?_⟩
  intro i s t hexec hi
  obtain rfl : execResult i s = t := by simpa [exec_eq] using hexec
  exact execResult_shift_of_not_remap hi s

/-- Settles O7: the sequence is one rotation by the sum of the deltas, which is a whole number of turns. -/
theorem rotationsSummingTo26kAreIdentity : Obligations.RotationsSummingTo26kAreIdentity := by
  intro deltas s hsum
  rw [foldl_rotate, rotate_eq_self hsum]
  exact ⟨rfl, fun hs b => by rw [hs]; rfl⟩

/-- Settles O8: the two rotations are the one by `n + (-n) = 0`, so the whole state is restored. -/
theorem rotateInverseRestores : Obligations.RotateInverseRestores := by
  intro n s
  have hrestore : rotate (-n) (rotate n s) = s := by
    rw [rotate_rotate, Int.add_right_neg]
    exact rotate_eq_self rfl s
  rw [hrestore]
  exact ⟨rfl, fun _ => rfl⟩

/-- Settles O12: `rotate(2)` turns the shift 0 into 2, under which `A` maps to `C`; only the shift 0 fixes a letter. -/
theorem rotorIsNotDegenerate : Obligations.RotorIsNotDegenerate := by
  refine ⟨fun s hs => ?_, fun _ _ hshift hb => mapSymbol_upper_ne hshift hb⟩
  rw [rotate_shift, hs]
  decide

/-- Settles O9: a byte that is no letter has no alphabetic position, so `map` passes it through. -/
theorem nonLettersPassThrough : Obligations.NonLettersPassThrough := by
  intro shift b hb
  obtain ⟨hu, hl⟩ := not_or.mp (hb ∘ letter_iff.mpr)
  exact mapSymbol_other shift (Bool.eq_false_of_not_eq_true hu) (Bool.eq_false_of_not_eq_true hl)

end Sys2Proof.Machine
end

section
/-! PROOF. The frames (R68 to R70, R73, R74): what a line adds to the buffer and to the events and how far it turns
the rotor, as functions of the line and the shift alone; only END stops. -/

namespace Sys2Proof.Machine

/-! ### What an instruction adds -/

/-- The bytes an instruction appends under a shift (R68, R69): `map` of the symbol it carries, if any. -/
def appendedBytes (shift : Fin 26) (i : Instr) : List Byte :=
  ((Spec.symbolOf i).map (mapSymbol shift)).toList

/-- The events an instruction's own meaning emits (R72); END's `Finished` is the loop's (R77). -/
def reportedEvents : Instr → List Event
  | .data _ => []
  | .dataSpace => []
  | .remap _ => []
  | .endFrame => []
  | .malformed sub => [.err .malformedFrame sub]

@[simp] theorem render_rotate (d : Int) (s : State) : render (rotate d s) = render s := rfl

@[simp] theorem render_clearIdle (s : State) : render (clearIdle s) = render s := rfl

@[simp] theorem render_raiseMalformed (k : MalformedClass) (s : State) :
    render (raiseMalformed k s) = render s := rfl

@[simp] theorem render_stopWith (c : Cause) (s : State) : render (stopWith c s) = render s := rfl

/-- R68, R69: the buffer grows by the mapped symbol, if the instruction carries one. -/
theorem render_execResult (i : Instr) (s : State) :
    render (execResult i s) = render s ++ appendedBytes s.shift i := by
  cases i with
  | data c => exact render_bufAppend _ _
  | dataSpace => exact render_bufAppend _ _
  | remap delta => simp [appendedBytes, Spec.symbolOf]
  | endFrame => simp [appendedBytes, Spec.symbolOf]
  | malformed sub => simp [appendedBytes, Spec.symbolOf]

/-- R70, R57: the rotor turns by the instruction's delta, which is 0 for all but REMAP. -/
theorem execResult_shift (i : Instr) (s : State) :
    (execResult i s).shift = residue (s.shift.val + Spec.deltaOf i) := by
  cases i with
  | remap delta => rfl
  | data c => simp [Spec.deltaOf, residue_val_self]
  | dataSpace => simp [Spec.deltaOf, residue_val_self]
  | endFrame => simp [Spec.deltaOf, residue_val_self]
  | malformed sub => simp [Spec.deltaOf, residue_val_self]

theorem execResult_out_of_ne_endFrame {i : Instr} (hi : i ≠ .endFrame) (s : State) :
    (execResult i s).out = s.out ++ reportedEvents i := by
  cases i with
  | endFrame => exact absurd rfl hi
  | data c => simp [reportedEvents]
  | dataSpace => simp [reportedEvents]
  | remap delta => simp [reportedEvents]
  | malformed sub => simp [reportedEvents]

theorem execResult_run_of_ne_endFrame {i : Instr} (hi : i ≠ .endFrame) (s : State) :
    (execResult i s).run = s.run := by
  cases i with
  | endFrame => exact absurd rfl hi
  | data c => simp
  | dataSpace => simp
  | remap delta => simp
  | malformed sub => simp

/-! ### The signal -/

theorem continueSignal_eq_stop_iff (i : Instr) : continueSignal i = .stop ↔ i = .endFrame := by
  cases i <;> simp [continueSignal]

theorem execResult_stopped_iff {s : State} (hs : s.run = .running) (i : Instr) :
    (execResult i s).run = .stopped ↔ i = .endFrame := by
  constructor
  · intro hstop
    by_contra hi
    simp [execResult_run_of_ne_endFrame hi, hs] at hstop
  · rintro rfl
    rfl

/-! ### `map` on the blank and on lower-case letters -/

theorem mapSymbol_spaceSymbol (shift : Fin 26) : mapSymbol shift spaceSymbol = spaceSymbol :=
  mapSymbol_other shift (by decide) (by decide)

theorem isUpper_mapSymbol_of_isLower (shift : Fin 26) {b : Byte} (hb : isLower b = true) :
    isUpper (mapSymbol shift b) = true := by
  rw [isUpper_iff, mapSymbol_lower shift hb]
  omega

/-! ### The statements -/

/-- Settles O31: END alone has the signal stop, `decode` reads it off the one line `END`, and it alone ends `run`. -/
theorem onlyEndSignalsStop : Obligations.OnlyEndSignalsStop := by
  refine ⟨fun l => (continueSignal_eq_stop_iff _).trans (decode_eq_endFrame_iff l), ?_⟩
  intro l s t hs hline
  obtain rfl : execResult (decode l) (clearIdle s) = t := by simpa [onLine, exec_eq] using hline
  exact (execResult_stopped_iff (s := clearIdle s) hs _).trans (continueSignal_eq_stop_iff _).symm

/-- Settles O32: shift, appended bytes and events are functions of the instruction and the old shift. -/
theorem dispatchDependsOnLineAndShift : Obligations.DispatchDependsOnLineAndShift := by
  intro i s₁ s₂ t₁ t₂ hshift h₁ h₂
  obtain rfl : execResult i s₁ = t₁ := by simpa [exec_eq] using h₁
  obtain rfl : execResult i s₂ = t₂ := by simpa [exec_eq] using h₂
  refine ⟨?_, ⟨appendedBytes s₁.shift i, render_execResult i s₁, ?_⟩, fun hi => ⟨reportedEvents i,
    execResult_out_of_ne_endFrame hi s₁, execResult_out_of_ne_endFrame hi s₂⟩⟩
  · rw [execResult_shift, execResult_shift, hshift]
  · rw [hshift, render_execResult]

/-- Settles O24: the meaning of DATA is one `BufAppend` of the mapped symbol, and `map` passes a non-letter through
and gives an upper-case letter for a lower-case one. -/
theorem dataAppendsMappedSymbol : Obligations.DataAppendsMappedSymbol := by
  intro s c
  have happend : exec (.data c) s = .next { s with buf := s.buf ++ [(s.buf.length, mapSymbol s.shift c)] } :=
    exec_data c s
  refine ⟨happend, fun hc => ?_, isUpper_mapSymbol_of_isLower s.shift⟩
  rw [happend, nonLettersPassThrough s.shift c hc]

/-- Settles O25: the meaning is one `BufAppend` of the mapped blank, which `map` passes through. -/
theorem spaceAppendsBlank : Obligations.SpaceAppendsBlank := by
  intro s
  rw [exec_dataSpace, mapSymbol_spaceSymbol]
  rfl

/-- Settles O26: the meaning is one `rotate`, whose result is the residue of the sum. -/
theorem remapMovesShiftOnly : Obligations.RemapMovesShiftOnly :=
  fun s delta => ⟨residue (s.shift.val + delta), exec_remap delta s, residue_val _⟩

end Sys2Proof.Machine
end

section
/-! PROOF. The order of appending (R75): a run over lines among which no END occurs, from any RUNNING state, one line
at a time. -/

namespace Sys2Proof.Machine

/-! ### The message, one line at a time -/

theorem deltaSum_cons (l : Line) (ls : List Line) :
    Spec.deltaSum (l :: ls) = Spec.deltaOf (decode l) + Spec.deltaSum ls := by
  simp [Spec.deltaSum]

/-- The first line is mapped under the shift before it, the lines after it under a shift moved by its delta. -/
theorem messageFrom_cons (start : Int) (l : Line) (ls : List Line) :
    Spec.messageFrom start (l :: ls) =
      appendedBytes (residue start) (decode l) ++ Spec.messageFrom (start + Spec.deltaOf (decode l)) ls := by
  have hfirst : Spec.deltaSum [] = 0 := rfl
  cases h : Spec.symbolOf (decode l) <;>
    simp [Spec.messageFrom, appendedBytes, List.range_succ_eq_map, List.filterMap_map, h, hfirst,
      deltaSum_cons, Int.add_assoc]

/-- R64, R124: the shift before the lines matters modulo 26 only. -/
theorem messageFrom_residue (start : Int) (ls : List Line) :
    Spec.messageFrom (residue start).val ls = Spec.messageFrom start ls := by
  simp only [Spec.messageFrom, residue_residue_add]

/-! ### The run -/

/-- R75 from any RUNNING state: lines without END leave it RUNNING, append their message under its shift, and turn the
rotor by the sum of their deltas. -/
theorem runResponses_lines {ls : List Line} (hls : ∀ l ∈ ls, decode l ≠ .endFrame) {s : State}
    (hs : s.run = .running) :
    ∃ t : State, runResponses (ls.map Resp.line) s = .next t ∧ t.run = .running ∧
      render t = render s ++ Spec.messageFrom s.shift.val ls ∧
      t.shift = residue (s.shift.val + Spec.deltaSum ls) := by
  induction ls generalizing s with
  | nil => exact ⟨s, rfl, hs, (List.append_nil _).symm, by simp [Spec.deltaSum, residue_val_self]⟩
  | cons l ls ih =>
    obtain ⟨hl, hrest⟩ := List.forall_mem_cons.mp hls
    have hrun : (execResult (decode l) (clearIdle s)).run = .running :=
      (execResult_run_of_ne_endFrame hl _).trans hs
    obtain ⟨t, ht, htrun, htrender, htshift⟩ := ih hrest hrun
    rw [execResult_shift, clearIdle_shift] at htrender htshift
    refine ⟨t, ?_, htrun, ?_, ?_⟩
    · rw [List.map_cons, runResponses_cons hs, respondResult_line, ht]
    · rw [htrender, render_execResult, render_clearIdle, clearIdle_shift, messageFrom_residue, messageFrom_cons,
        residue_val_self, List.append_assoc]
    · rw [htshift, residue_residue_add, deltaSum_cons, Int.add_assoc]

/-- Settles O34: the run over the lines from the reset state, whose buffer is empty and whose shift is 0. -/
theorem appendOrderLaw : Obligations.AppendOrderLaw := by
  intro limit ls hls
  obtain ⟨t, ht, hrun, hrender, hshift⟩ := runResponses_lines hls (resetWith_run limit)
  refine ⟨t, ht, hrun, hrender, ?_⟩
  rw [hshift, residue_val, resetWith_shift]
  simp

end Sys2Proof.Machine
end

section
/-! PROOF. Stopping (R83): `stop(c)` as one record update of the state before it. -/

namespace Sys2Proof.Machine

/-- `Finished` carries the buffer of the state before the stop, since `render` reads neither `run` nor `cause`. -/
theorem stopWith_eq (c : Cause) (s : State) :
    stopWith c s = { s with run := .stopped, cause := c, out := s.out ++ [.finished (render s)] } := rfl

/-- Settles O42: the next state in full, and its two fields that the rule says are not cleared. -/
theorem stopSetsRunAndCause : Obligations.StopSetsRunAndCause :=
  fun c s => ⟨stopWith_eq c s, stopWith_buf c s, stopWith_shift c s⟩

end Sys2Proof.Machine
end

section
/-! PROOF. A step on a placed response (R76, R77), and the malformed line (R104): the one exception of the machine saves
no state and transfers no control. -/

namespace Sys2Proof.Machine

/-- R76: the step on a placed response is what the loop does for it, once it is taken. -/
theorem step_of_input_cons {s : State} {r : Resp} {rest : List Resp} (hrun : s.run = .running)
    (hin : s.input = r :: rest) : step s = respond r { s with input := rest } := by
  rw [step_running hrun, takeResponse_cons hin]

/-- R77: on a placed line the loop clears `idle`, then parses and dispatches. -/
theorem step_of_input_line {s : State} {l : Line} {rest : List Resp} (hrun : s.run = .running)
    (hin : s.input = .line l :: rest) : step s = exec (decode l) { s with input := rest, idle := 0 } :=
  step_of_input_cons hrun hin

/-- Settles O37: the step is the meaning of MALFORMED, which is the raise: one event, and no other field written. -/
theorem malformedLineStep : Obligations.MalformedLineStep := by
  intro s l rest sub hrun hin hdecode
  calc step s
      = exec (.malformed sub) { s with input := rest, idle := 0 } := by
        rw [step_of_input_line hrun hin, hdecode]
    _ = .next (raiseMalformed sub { s with input := rest, idle := 0 }) := exec_malformed _ _

end Sys2Proof.Machine
end

section
/-! PROOF. A REMAP and the DATA after it (R117): the message of the lines after a split starts at the shift the lines
before it leave, and a REMAP line appends nothing but moves that start by its delta. -/

namespace Sys2Proof.Machine

/-- The lines before a split append what they append alone; those after it start from the shift moved by their deltas. -/
theorem messageFrom_append (start : Int) (before after : List Line) :
    Spec.messageFrom start (before ++ after) =
      Spec.messageFrom start before ++ Spec.messageFrom (start + Spec.deltaSum before) after := by
  induction before generalizing start with
  | nil =>
    have hnil : start + Spec.deltaSum [] = start := Int.add_zero start
    rw [hnil]
    rfl
  | cons l before ih =>
    rw [List.cons_append, messageFrom_cons, messageFrom_cons, ih, deltaSum_cons, List.append_assoc, Int.add_assoc]

/-- A REMAP line appends nothing, and its delta counts from the very next line on. -/
theorem messageFrom_remap_cons (start : Int) {l : Line} {delta : Int} (hl : decode l = .remap delta)
    (after : List Line) : Spec.messageFrom start (l :: after) = Spec.messageFrom (start + delta) after := by
  rw [messageFrom_cons, hl]
  rfl

/-- Settles O33: both runs append the message of their lines, which splits at the place of the REMAP. -/
theorem remapActsOnLaterDataOnly : Obligations.RemapActsOnLaterDataOnly := by
  intro s before after remapLine delta hrun hremap hlines
  obtain ⟨hbefore, hafter⟩ := List.forall_mem_append.mp hlines
  have hne : decode remapLine ≠ .endFrame := by simp [hremap]
  have hwith : ∀ l ∈ before ++ remapLine :: after, decode l ≠ .endFrame :=
    List.forall_mem_append.mpr ⟨hbefore, List.forall_mem_cons.mpr ⟨hne, hafter⟩⟩
  obtain ⟨t, ht, -, htrender, -⟩ := runResponses_lines hwith hrun
  obtain ⟨u, hu, -, hurender, -⟩ := runResponses_lines hlines hrun
  refine ⟨t, u, ht, hu, ?_, ?_⟩
  · rw [htrender, messageFrom_append, messageFrom_remap_cons _ hremap, List.append_assoc]
  · rw [hurender, messageFrom_append, List.append_assoc]

end Sys2Proof.Machine
end

section
/-! PROOF. The grammar of the lines (R43 to R48): numerals and their value, the form of every line, and the
encoder as a right inverse of the decoder. -/

namespace Sys2Proof

/-! ### Digits and their value -/

theorem isDigit_iff {b : Byte} : isDigit b = true ↔ 0x30 ≤ b.toNat ∧ b.toNat ≤ 0x39 := by
  simp [isDigit]

theorem allDigits_iff {d : List Byte} : Spec.AllDigits d ↔ ∀ b ∈ d, isDigit b = true := by
  simp only [Spec.AllDigits, isDigit_iff]

theorem not_isDigit_minusSign : ¬ isDigit minusSign = true := by decide

/-- R48, D28: reading a digit sequence on from `m` shifts `m` by its length. -/
theorem foldl_digits (m : Nat) (d : List Byte) :
    d.foldl (fun m b => 10 * m + digitValue b) m = m * 10 ^ d.length + Spec.decimalValue d := by
  induction d generalizing m with
  | nil => simp [Spec.decimalValue]
  | cons b d ih =>
    rw [List.foldl_cons, ih, Spec.decimalValue, List.length_cons, digitValue]
    ring

theorem magnitude_eq_decimalValue (d : List Byte) : magnitude d = Spec.decimalValue d := by
  simpa [magnitude] using foldl_digits 0 d

theorem assembleDelta_false (d : List Byte) : assembleDelta false d = (Spec.decimalValue d : Int) := by
  simp [assembleDelta, magnitude_eq_decimalValue]

theorem assembleDelta_true (d : List Byte) : assembleDelta true d = -(Spec.decimalValue d : Int) := by
  simp [assembleDelta, magnitude_eq_decimalValue]

/-! ### The payload of a REMAP -/

/-- The payload is an optional `-` and one or more digits (R45, D7), spelt as the statements spell it. -/
def Numeral (p : List Byte) : Prop :=
  ∃ d : List Byte, d ≠ [] ∧ Spec.AllDigits d ∧ (p = d ∨ p = [0x2D#8] ++ d)

/-- A digit sequence does not start with `-`, so no numeral is read in two ways. -/
theorem head_ne_minusSign {b : Byte} {d : List Byte} (hd : Spec.AllDigits (b :: d)) : b ≠ minusSign := by
  rintro rfl
  exact not_isDigit_minusSign (isDigit_iff.mpr (hd _ List.mem_cons_self))

theorem isNumeral_iff (p : List Byte) : isNumeral p = true ↔ Numeral p := by
  constructor
  · intro h
    by_cases hminus : p.head? = some minusSign
    · obtain ⟨d, rfl⟩ := List.head?_eq_some_iff.mp hminus
      obtain ⟨hne, hd⟩ : d ≠ [] ∧ ∀ b ∈ d, isDigit b = true := by simpa [isNumeral] using h
      exact ⟨d, hne, allDigits_iff.mpr hd, .inr rfl⟩
    · obtain ⟨hne, hd⟩ : p ≠ [] ∧ ∀ b ∈ p, isDigit b = true := by simpa [isNumeral, hminus] using h
      exact ⟨p, hne, allDigits_iff.mpr hd, .inl rfl⟩
  · rintro ⟨d, hne, hd, rfl | rfl⟩
    · obtain ⟨b, rest, rfl⟩ := List.exists_cons_of_ne_nil hne
      simpa [isNumeral, head_ne_minusSign hd] using allDigits_iff.mp hd
    · simpa [isNumeral, hne] using allDigits_iff.mp hd

theorem decodeRemapPayload_digits {d : List Byte} (hne : d ≠ []) (hd : Spec.AllDigits d) :
    decodeRemapPayload d = .remap (Spec.decimalValue d : Int) := by
  obtain ⟨b, rest, rfl⟩ := List.exists_cons_of_ne_nil hne
  simpa [decodeRemapPayload, head_ne_minusSign hd, assembleDelta_false] using allDigits_iff.mp hd

theorem decodeRemapPayload_minus {d : List Byte} (hne : d ≠ []) (hd : Spec.AllDigits d) :
    decodeRemapPayload (minusSign :: d) = .remap (-(Spec.decimalValue d : Int)) := by
  simpa [decodeRemapPayload, hne, assembleDelta_true] using allDigits_iff.mp hd

theorem decodeRemapPayload_of_not_numeral {p : List Byte} (hne : p ≠ []) (hp : ¬ Numeral p) :
    decodeRemapPayload p = .malformed .nonNumeric := by
  obtain ⟨b, rest, rfl⟩ := List.exists_cons_of_ne_nil hne
  rw [← isNumeral_iff] at hp
  by_cases hb : b = minusSign <;> simp_all [decodeRemapPayload, isNumeral]

/-! ### The grammar -/

/-- R43 to R47 as a relation: the lines of each frame and of each malformed class. -/
inductive LineForm : Line → Instr → Prop
  | data (c : Byte) : LineForm (prefixData ++ [c]) (.data c)
  | dataSpace : LineForm (prefixData ++ tokenSpace) .dataSpace
  | remap {d : List Byte} (hne : d ≠ []) (hd : Spec.AllDigits d) :
      LineForm (prefixRemap ++ d) (.remap (Spec.decimalValue d : Int))
  | remapNeg {d : List Byte} (hne : d ≠ []) (hd : Spec.AllDigits d) :
      LineForm (prefixRemap ++ minusSign :: d) (.remap (-(Spec.decimalValue d : Int)))
  | endFrame : LineForm tokenEnd .endFrame
  | unrecognized {l : Line} (hdata : l.take 2 ≠ prefixData) (hremap : l.take 2 ≠ prefixRemap)
      (hend : l ≠ tokenEnd) : LineForm l (.malformed .unrecognized)
  | missingData : LineForm prefixData (.malformed .missingPayload)
  | missingRemap : LineForm prefixRemap (.malformed .missingPayload)
  | badData {p : List Byte} (hlen : 2 ≤ p.length) (hspace : p ≠ tokenSpace) :
      LineForm (prefixData ++ p) (.malformed .badDataPayload)
  | nonNumeric {p : List Byte} (hne : p ≠ []) (hp : ¬ Numeral p) :
      LineForm (prefixRemap ++ p) (.malformed .nonNumeric)

theorem lineForm_decodeDataPayload (p : List Byte) : LineForm (prefixData ++ p) (decodeDataPayload p) := by
  obtain ⟨rfl, h⟩ | ⟨c, rfl, h⟩ | ⟨rfl, h⟩ | ⟨hlen, hspace, h⟩ := decodeDataPayload_cases p
  · exact h ▸ .dataSpace
  · exact h ▸ .data c
  · exact h ▸ .missingData
  · exact h ▸ .badData hlen hspace

theorem lineForm_decodeRemapPayload (p : List Byte) : LineForm (prefixRemap ++ p) (decodeRemapPayload p) := by
  by_cases hne : p = []
  · rw [hne]
    exact .missingRemap
  by_cases hp : Numeral p
  · obtain ⟨d, hd, hdigits, rfl | rfl⟩ := hp
    · exact decodeRemapPayload_digits hd hdigits ▸ .remap hd hdigits
    · exact decodeRemapPayload_minus hd hdigits ▸ .remapNeg hd hdigits
  · exact decodeRemapPayload_of_not_numeral hne hp ▸ .nonNumeric hne hp

/-- R51: `parse` finds a form for every line. -/
theorem lineForm_decode (l : Line) : LineForm l (decode l) := by
  obtain ⟨p, rfl, h⟩ | ⟨p, rfl, h⟩ | ⟨rfl, h⟩ | ⟨hdata, hremap, hend, h⟩ := decode_cases l
  · exact h ▸ lineForm_decodeDataPayload p
  · exact h ▸ lineForm_decodeRemapPayload p
  · exact h ▸ .endFrame
  · exact h ▸ .unrecognized hdata hremap hend

/-- No line has two forms, so the form is what `parse` answers. -/
theorem decode_of_lineForm {l : Line} {i : Instr} (h : LineForm l i) : decode l = i := by
  cases h with
  | data c => exact (decode_prefixData [c]).trans (by simp [decodeDataPayload])
  | dataSpace => rfl
  | remap hne hd => exact (decode_prefixRemap _).trans (decodeRemapPayload_digits hne hd)
  | remapNeg hne hd => exact (decode_prefixRemap _).trans (decodeRemapPayload_minus hne hd)
  | endFrame => rfl
  | unrecognized hdata hremap hend => simp only [decode, if_neg hdata, if_neg hremap, if_neg hend]
  | missingData => rfl
  | missingRemap => rfl
  | badData hlen hspace => exact decode_prefixData_badDataPayload hlen hspace
  | nonNumeric hne hp => exact (decode_prefixRemap _).trans (decodeRemapPayload_of_not_numeral hne hp)

theorem lineForm_of_decode {l : Line} {i : Instr} (h : decode l = i) : LineForm l i :=
  h ▸ lineForm_decode l

/-! ### The encoder -/

theorem allDigits_digitByte_cons {k : Nat} (hk : k < 10) {acc : List Byte} (hacc : Spec.AllDigits acc) :
    Spec.AllDigits (digitByte k :: acc) :=
  allDigits_iff.mpr (List.forall_mem_cons.mpr ⟨isDigit_digitByte hk, allDigits_iff.mp hacc⟩)

theorem digitsBefore_allDigits (fuel n : Nat) {acc : List Byte} (hacc : Spec.AllDigits acc) :
    Spec.AllDigits (digitsBefore fuel n acc) := by
  induction fuel generalizing n acc with
  | zero => exact hacc
  | succ fuel ih =>
    unfold digitsBefore
    split
    · exact allDigits_digitByte_cons ‹_› hacc
    · exact ih _ (allDigits_digitByte_cons (Nat.mod_lt n (by decide)) hacc)

/-- R48: the digits put before `acc` stand for `n`, if the fuel bounds their number. -/
theorem decimalValue_digitsBefore (fuel : Nat) {n : Nat} (hn : n < 2 ^ fuel) (acc : List Byte) :
    Spec.decimalValue (digitsBefore fuel n acc) = n * 10 ^ acc.length + Spec.decimalValue acc := by
  induction fuel generalizing n acc with
  | zero =>
    obtain rfl : n = 0 := by simpa using hn
    simp [digitsBefore]
  | succ fuel ih =>
    unfold digitsBefore
    split
    · simp [Spec.decimalValue, digitByte_toNat ‹_›]
    · have hmod : n % 10 < 10 := Nat.mod_lt n (by decide)
      have hdiv : n / 10 < 2 ^ fuel := by omega
      rw [ih hdiv, Spec.decimalValue, digitByte_toNat hmod, List.length_cons, Nat.add_sub_cancel_left]
      calc n / 10 * 10 ^ (acc.length + 1) + (n % 10 * 10 ^ acc.length + Spec.decimalValue acc)
          = (10 * (n / 10) + n % 10) * 10 ^ acc.length + Spec.decimalValue acc := by ring
        _ = n * 10 ^ acc.length + Spec.decimalValue acc := by rw [Nat.div_add_mod]

theorem decimalDigits_allDigits (n : Nat) : Spec.AllDigits (decimalDigits n) :=
  digitsBefore_allDigits _ _ (by simp [Spec.AllDigits])

theorem decimalDigits_ne_nil (n : Nat) : decimalDigits n ≠ [] :=
  List.ne_nil_of_length_pos (Laws.EncodedLength.decimalDigits_length n)

theorem decimalValue_decimalDigits (n : Nat) : Spec.decimalValue (decimalDigits n) = n := by
  simpa [decimalDigits, Spec.decimalValue] using decimalValue_digitsBefore _ Nat.lt_log2_self []

/-- R45: the numeral the encoder writes is one that the grammar reads as `delta`. -/
theorem lineForm_numeral (delta : Int) : LineForm (prefixRemap ++ numeral delta) (.remap delta) := by
  have hne := decimalDigits_ne_nil delta.natAbs
  have hdigits := decimalDigits_allDigits delta.natAbs
  have hvalue := decimalValue_decimalDigits delta.natAbs
  unfold numeral
  split
  · next hneg =>
    have h := LineForm.remapNeg hne hdigits
    rwa [hvalue, Int.ofNat_natAbs_of_nonpos hneg.le, neg_neg] at h
  · next hpos =>
    have h := LineForm.remap hne hdigits
    rwa [hvalue, Int.natAbs_of_nonneg (Int.not_lt.mp hpos)] at h

theorem lineForm_encode {i : Instr} (hi : i.wellFormed = true) : LineForm (encode i) i := by
  cases i with
  | data c => exact .data c
  | dataSpace => exact .dataSpace
  | remap delta => exact lineForm_numeral delta
  | endFrame => exact .endFrame
  | malformed sub => simp [Instr.wellFormed] at hi

/-- Settles O22: the line the encoder writes is of the frame's form, and the decoder answers the form of its line. -/
theorem decodeEncodeRoundTrip : Obligations.DecodeEncodeRoundTrip :=
  fun _ hi => decode_of_lineForm (lineForm_encode hi)

/-! ### The formats -/

/-- Settles O15: the lines are literals, on which `decode` is evaluated. -/
theorem linesDecodeAsTabled : Obligations.LinesDecodeAsTabled := by
  unfold Obligations.LinesDecodeAsTabled
  decide

/-- Settles O16: one form of the grammar gives DATA. -/
theorem dataFormatExact : Obligations.DataFormatExact := by
  intro l c
  constructor
  · intro h
    cases lineForm_of_decode h
    rfl
  · rintro rfl
    exact decode_of_lineForm (.data c)

/-- Settles O18: two forms of the grammar give a REMAP, one for each sign. -/
theorem remapFormatExact : Obligations.RemapFormatExact := by
  intro l delta
  constructor
  · intro h
    cases lineForm_of_decode h with
    | remap hne hd => exact ⟨_, hne, hd, .inl ⟨rfl, rfl⟩⟩
    | remapNeg hne hd => exact ⟨_, hne, hd, .inr ⟨rfl, rfl⟩⟩
  · rintro ⟨d, hne, hd, ⟨rfl, rfl⟩ | ⟨rfl, rfl⟩⟩
    · exact decode_of_lineForm (.remap hne hd)
    · exact decode_of_lineForm (.remapNeg hne hd)

/-- A line that starts with two given bytes is those bytes and a payload. -/
theorem eq_append_of_take {l pre : Line} (h : l.take 2 = pre) : l = pre ++ l.drop 2 := by
  rw [← h, List.take_append_drop]

/-- Settles O20: each class is one form of the grammar, and MISSING_PAYLOAD one for each of `L,` and `M,`. -/
theorem malformedClassesAsListed : Obligations.MalformedClassesAsListed := by
  intro l
  refine ⟨⟨fun h => ?_, fun ⟨hdata, hremap, hend⟩ => decode_of_lineForm (.unrecognized hdata hremap hend)⟩,
    ⟨fun h => ?_, ?_⟩, ⟨fun h => ?_, fun ⟨htake, hlen, hspace⟩ => ?_⟩, ⟨fun h => ?_, fun ⟨htake, hlen, hp⟩ => ?_⟩⟩
  · cases lineForm_of_decode h with
    | unrecognized hdata hremap hend => exact ⟨hdata, hremap, hend⟩
  · cases lineForm_of_decode h with
    | missingData => exact .inl rfl
    | missingRemap => exact .inr rfl
  · rintro (rfl | rfl)
    · rfl
    · rfl
  · cases lineForm_of_decode h with
    | badData hlen hspace => exact ⟨rfl, by simpa using hlen, hspace⟩
  · rw [eq_append_of_take htake]
    exact decode_of_lineForm (.badData (by simp; omega) hspace)
  · cases lineForm_of_decode h with
    | nonNumeric hne hp => exact ⟨rfl, by simpa [Nat.one_le_iff_ne_zero] using hne, hp⟩
  · rw [eq_append_of_take htake]
    exact decode_of_lineForm (.nonNumeric (List.ne_nil_of_length_pos (by simp; omega)) hp)

/-- Settles O23: every frame form but a REMAP's is what the encoder writes, and a REMAP's is a numeral. -/
theorem framesAreExactlyTheEncodings : Obligations.FramesAreExactlyTheEncodings := by
  intro l
  constructor
  · intro h
    generalize hi : decode l = i at h
    cases lineForm_of_decode hi with
    | data c => exact .inl ⟨.data c, rfl, rfl⟩
    | dataSpace => exact .inl ⟨.dataSpace, rfl, rfl⟩
    | remap hne hd => exact .inr ⟨_, hne, hd, .inl rfl⟩
    | remapNeg hne hd => exact .inr ⟨_, hne, hd, .inr rfl⟩
    | endFrame => exact .inl ⟨.endFrame, rfl, rfl⟩
    | _ => cases h
  · rintro (⟨i, hi, rfl⟩ | ⟨d, hne, hd, rfl | rfl⟩)
    · rwa [decodeEncodeRoundTrip i hi]
    · rw [decode_of_lineForm (.remap hne hd)]
      rfl
    · exact congrArg Instr.wellFormed (decode_of_lineForm (.remapNeg hne hd))

end Sys2Proof
end

section
/-! PROOF. What an instruction and a response leave unchanged (R26, R68 to R72, R76 to R80), and which responses stop
the machine (R125). -/

namespace Sys2Proof.Machine

/-! ### The frame of an instruction -/

@[simp] theorem execResult_idle (i : Instr) (s : State) : (execResult i s).idle = s.idle := by
  cases i <;> rfl
@[simp] theorem execResult_parser (i : Instr) (s : State) : (execResult i s).parser = s.parser := by
  cases i <;> rfl
@[simp] theorem execResult_emptyPollLimit (i : Instr) (s : State) :
    (execResult i s).emptyPollLimit = s.emptyPollLimit := by
  cases i <;> rfl
@[simp] theorem execResult_input (i : Instr) (s : State) : (execResult i s).input = s.input := by
  cases i <;> rfl
@[simp] theorem execResult_freeTaken (i : Instr) (s : State) : (execResult i s).freeTaken = s.freeTaken := by
  cases i <;> rfl

/-- R26: an instruction leaves the buffer as it is or appends one byte to it. -/
theorem execResult_buf_cases (i : Instr) (s : State) :
    (execResult i s).buf = s.buf ∨ ∃ v, (execResult i s).buf = Memory.push s.buf v := by
  cases i with
  | data c => exact .inr ⟨_, rfl⟩
  | dataSpace => exact .inr ⟨_, rfl⟩
  | remap delta => exact .inl rfl
  | endFrame => exact .inl rfl
  | malformed sub => exact .inl rfl

theorem execResult_cause_of_ne_endFrame {i : Instr} (hi : i ≠ .endFrame) (s : State) :
    (execResult i s).cause = s.cause := by
  cases i with
  | endFrame => exact absurd rfl hi
  | data c => simp
  | dataSpace => simp
  | remap delta => simp
  | malformed sub => simp

/-- Settles O29: both instructions are one `BufAppend`, which writes the one address `len(buf)`. -/
theorem appendingFramesLeaveTheRest : Obligations.AppendingFramesLeaveTheRest := by
  intro i s t hexec hi
  obtain ⟨v, rfl⟩ : ∃ v, t = bufAppend v s := by
    obtain ⟨c, rfl⟩ | rfl := hi
    · exact ⟨_, (Host.Outcome.next.inj hexec).symm⟩
    · exact ⟨_, (Host.Outcome.next.inj hexec).symm⟩
  exact ⟨⟨rfl, rfl, rfl, rfl, rfl, rfl, rfl, rfl, rfl⟩, fun _ => Memory.read_push_of_ne _ _⟩

/-- Settles O30: the buffer is the same, and each named field is written by its own instruction only. -/
theorem nonStoringFramesLeaveTheRest : Obligations.NonStoringFramesLeaveTheRest := by
  intro i s t hexec hd hs
  obtain rfl : execResult i s = t := by simpa [exec_eq] using hexec
  refine ⟨fun a => by rw [execResult_buf_of_not_appending hd hs], execResult_idle i s, execResult_parser i s,
    execResult_emptyPollLimit i s, execResult_input i s, execResult_freeTaken i s,
    fun hi => execResult_shift_of_not_remap hi s,
    fun hi => ⟨execResult_run_of_ne_endFrame hi s, execResult_cause_of_ne_endFrame hi s⟩, fun hi hk => ?_⟩
  rw [execResult_out_of_ne_endFrame hi]
  cases i with
  | malformed sub => exact absurd rfl (hk sub)
  | _ => exact List.append_nil _

/-- Settles O27: the meaning is `stop(END)`, and a STOPPED state has no step. -/
theorem endStopsAndHandsOutBuffer : Obligations.EndStopsAndHandsOutBuffer :=
  fun s => ⟨_, exec_endFrame s, stopWith_eq .endFrame s, step_stopped (stopWith_run .endFrame s)⟩

/-- Settles O28: the meaning is the raise, one event. -/
theorem malformedReportsOnly : Obligations.MalformedReportsOnly :=
  fun s sub => ⟨exec_malformed sub s, rfl⟩

/-! ### The frame of a response -/

@[simp] theorem respondResult_parser (r : Resp) (s : State) : (respondResult r s).parser = s.parser := by
  cases r <;> simp
@[simp] theorem respondResult_emptyPollLimit (r : Resp) (s : State) :
    (respondResult r s).emptyPollLimit = s.emptyPollLimit := by
  cases r <;> simp
@[simp] theorem respondResult_input (r : Resp) (s : State) : (respondResult r s).input = s.input := by
  cases r <;> simp

/-- R36: a response leaves the buffer as it is or appends one byte to it. -/
theorem respondResult_buf_cases (r : Resp) (s : State) :
    (respondResult r s).buf = s.buf ∨ ∃ v, (respondResult r s).buf = Memory.push s.buf v := by
  cases r with
  | line l => simpa using execResult_buf_cases (decode l) (clearIdle s)
  | noData => exact .inl (onNoData_buf s)
  | exhausted => exact .inl rfl
  | failure => exact .inl rfl

/-- Settles O45: the response taken leaves the input, and what it does to the buffer is one append at most. -/
theorem stepIsAppendOnly : Obligations.StepIsAppendOnly := by
  intro s t hstep
  obtain ⟨-, rfl⟩ := step_next hstep
  have hbuf := respondResult_buf_cases (takeResponse s).1 (takeResponse s).2
  rw [takeResponse_buf] at hbuf
  refine ⟨?_, fun a ha => ?_, by simp, by simp, by simp⟩
  · obtain h | ⟨v, h⟩ := hbuf
    · exact ⟨[], by simp, by simp [render, h]⟩
    · exact ⟨[v], by simp, by simp [render, h]⟩
  · obtain h | ⟨v, h⟩ := hbuf
    · rw [h]
    · rw [h, Memory.read_push_of_ne _ _ ha]

/-- Settles O43: a RUNNING machine responds, and every response has a next state. -/
theorem everyRunningStateSteps : Obligations.EveryRunningStateSteps :=
  fun _ hrun => ⟨_, (step_running hrun).trans (respond_eq _ _)⟩

/-! ### Stopping -/

/-- R78: an empty poll counts, and stops where the count reaches the limit. -/
theorem onNoData_eq (s : State) :
    onNoData s = if limitReached s.emptyPollLimit (s.idle + 1) then stopWith .idle (countEmptyPoll s)
      else countEmptyPoll s := rfl

/-- R78: an empty poll stops a machine with cause NONE exactly where the count reaches the limit, with cause IDLE. -/
theorem onNoData_cause {s : State} (hcause : s.cause = .none) :
    (onNoData s).cause = if limitReached s.emptyPollLimit (s.idle + 1) then .idle else .none := by
  rw [onNoData_eq]
  split <;> simp [hcause]

theorem onNoData_run {s : State} (hrun : s.run = .running) :
    (onNoData s).run = if limitReached s.emptyPollLimit (s.idle + 1) then .stopped else .running := by
  rw [onNoData_eq]
  split <;> simp [hrun]

theorem limitReached_iff {limit : Option PollLimit} {k : Nat} :
    limitReached limit k = true ↔ ∃ n, limit = some n ∧ n.n ≤ k := by
  cases limit <;> simp

/-- R77: after a line the cause is END exactly if the line is, else what it was. -/
theorem execResult_cause (i : Instr) (s : State) :
    (execResult i s).cause = if i = .endFrame then .endFrame else s.cause := by
  split
  · next hi => rw [hi]; rfl
  · next hi => exact execResult_cause_of_ne_endFrame hi s

/-- Settles O44: the cause after each response, and `decode` reads END off the one line `END`. -/
theorem onlyTheseResponsesStop : Obligations.OnlyTheseResponsesStop := by
  intro s t r rest hrun hcause hin hstep
  rw [step_of_input_cons hrun hin, respond_eq] at hstep
  obtain rfl := Host.Outcome.next.inj hstep
  cases r with
  | line l =>
    have hend : Resp.line l = .line tokenEnd ↔ decode l = .endFrame := by
      rw [decode_eq_endFrame_iff, Resp.line.injEq]
    have hstop := execResult_stopped_iff (s := clearIdle { s with input := rest }) hrun (decode l)
    rw [respondResult_line, execResult_cause, hend, hstop]
    by_cases h : decode l = .endFrame <;> simp [h, hcause]
  | noData =>
    have hcause' := onNoData_cause (s := { s with input := rest }) hcause
    have hrun' := onNoData_run (s := { s with input := rest }) hrun
    rw [respondResult_noData, hcause', hrun', ← limitReached_iff]
    cases limitReached s.emptyPollLimit (s.idle + 1) <;> simp
  | exhausted => simp
  | failure => simp

end Sys2Proof.Machine
end

section
/-! PROOF. The invariant (R24, R16, R82, R121): it holds at reset, each operation a step is made of keeps it, so every
step at either grain does; along a run it counts the `Finished` events. -/

namespace Sys2Proof.Machine

/-! ### The operations keep the invariant -/

theorem isLower_eq_false_iff {b : Byte} : isLower b = false ↔ ¬ (0x61 ≤ b.toNat ∧ b.toNat ≤ 0x7A) := by
  rw [← Bool.not_eq_true, isLower_iff]

theorem isLower_eq_false_of_isUpper {b : Byte} (hb : isUpper b = true) : isLower b = false := by
  obtain ⟨-, hhigh⟩ := isUpper_iff.mp hb
  rw [isLower_eq_false_iff]
  omega

theorem isUpper_mapSymbol (shift : Fin 26) {b : Byte} (hb : isUpper b = true) : isUpper (mapSymbol shift b) = true := by
  rw [isUpper_iff, mapSymbol_upper shift hb]
  omega

/-- R121: `map` gives no lower-case letter: a letter's image is upper case, and every other byte passes through. -/
theorem isLower_mapSymbol (shift : Fin 26) (b : Byte) : isLower (mapSymbol shift b) = false := by
  cases hl : isLower b with
  | true => exact isLower_eq_false_of_isUpper (isUpper_mapSymbol_of_isLower shift hl)
  | false =>
    cases hu : isUpper b with
    | true => exact isLower_eq_false_of_isUpper (isUpper_mapSymbol shift hu)
    | false => rw [mapSymbol_other shift hu hl, hl]

theorem inv_rotate {s : State} (h : Inv s) (delta : Int) : Inv (rotate delta s) :=
  inv_congr h rfl rfl rfl rfl rfl rfl

/-- While RUNNING no `Finished` has been emitted, so the buffer may still grow. -/
theorem inv_bufAppend {s : State} (h : Inv s) (hrun : s.run = .running) {v : Byte} (hv : isLower v = false) :
    Inv (bufAppend v s) where
  buf_wf := Memory.wf_push h.buf_wf v
  no_lower := by
    rw [bufAppend_buf, Memory.bytes_push]
    exact List.forall_mem_append.mpr ⟨h.no_lower, by simpa using hv⟩
  cause_none := h.cause_none
  idle_lt := h.idle_lt
  idle_le := h.idle_le
  finished_not_yet := h.finished_not_yet
  finished_once := h.finished_once
  finished_buffer hstop := by simp [hrun] at hstop

theorem inv_emit {s : State} (h : Inv s) {e : Event} (he : isFinished e = false) : Inv (emit e s) where
  buf_wf := h.buf_wf
  no_lower := h.no_lower
  cause_none := h.cause_none
  idle_lt := h.idle_lt
  idle_le := h.idle_le
  finished_not_yet := by simpa [finishedCount, he] using h.finished_not_yet
  finished_once := by simpa [finishedCount, he] using h.finished_once
  finished_buffer hstop := List.mem_append_left _ (h.finished_buffer hstop)

/-- R77: the count 0 is below every legal limit. -/
theorem inv_clearIdle {s : State} (h : Inv s) : Inv (clearIdle s) where
  buf_wf := h.buf_wf
  no_lower := h.no_lower
  cause_none := h.cause_none
  idle_lt limit _ _ := limit.pos
  idle_le limit _ := Nat.zero_le limit.n
  finished_not_yet := h.finished_not_yet
  finished_once := h.finished_once
  finished_buffer := h.finished_buffer

/-- R78: a count that has not reached the limit is below it. -/
theorem inv_countEmptyPoll {s : State} (h : Inv s) (hlimit : limitReached s.emptyPollLimit (s.idle + 1) = false) :
    Inv (countEmptyPoll s) := by
  have hlt : ∀ limit, s.emptyPollLimit = some limit → s.idle + 1 < limit.n := by
    intro limit hl
    simpa [hl] using hlimit
  exact {
    buf_wf := h.buf_wf
    no_lower := h.no_lower
    cause_none := h.cause_none
    idle_lt := fun limit hl _ => hlt limit hl
    idle_le := fun limit hl => (hlt limit hl).le
    finished_not_yet := h.finished_not_yet
    finished_once := h.finished_once
    finished_buffer := h.finished_buffer }

/-- R83: `stop(c)` emits the one `Finished`; it asks of the count only that it is not above the limit, as an empty poll
at the limit stops with the count at it. -/
theorem inv_stopWith {s : State} (hwf : Memory.wf s.buf = true) (hlow : ∀ b ∈ Memory.bytes s.buf, isLower b = false)
    (hidle : ∀ limit, s.emptyPollLimit = some limit → s.idle ≤ limit.n) (hnone : finishedCount s = 0)
    {c : Cause} (hc : c ≠ .none) : Inv (stopWith c s) where
  buf_wf := hwf
  no_lower := hlow
  cause_none := by simp [hc]
  idle_lt _ _ hrun := by simp at hrun
  idle_le := hidle
  finished_not_yet hrun := by simp at hrun
  finished_once _ := by simp [hnone]
  finished_buffer _ := by simp

theorem inv_stopWith_of_running {s : State} (h : Inv s) (hrun : s.run = .running) {c : Cause} (hc : c ≠ .none) :
    Inv (stopWith c s) :=
  inv_stopWith h.buf_wf h.no_lower h.idle_le (h.finished_not_yet hrun) hc

theorem inv_onNoData {s : State} (h : Inv s) (hrun : s.run = .running) : Inv (onNoData s) := by
  rw [onNoData_eq]
  split
  · have hle : ∀ limit, s.emptyPollLimit = some limit → s.idle + 1 ≤ limit.n := fun limit hl => h.idle_lt limit hl hrun
    exact inv_stopWith (s := countEmptyPoll s) h.buf_wf h.no_lower hle (h.finished_not_yet hrun) (by decide)
  · next hlimit => exact inv_countEmptyPoll h (Bool.eq_false_of_not_eq_true hlimit)

theorem inv_onExhausted {s : State} (h : Inv s) (hrun : s.run = .running) : Inv (onExhausted s) :=
  inv_stopWith_of_running h hrun (by decide)

theorem inv_onFailure {s : State} (h : Inv s) (hrun : s.run = .running) : Inv (onFailure s) :=
  inv_emit (inv_stopWith_of_running h hrun (by decide)) rfl

theorem inv_execResult {s : State} (h : Inv s) (hrun : s.run = .running) (i : Instr) : Inv (execResult i s) := by
  cases i with
  | data c => exact inv_bufAppend h hrun (isLower_mapSymbol _ _)
  | dataSpace => exact inv_bufAppend h hrun (isLower_mapSymbol _ _)
  | remap delta => exact inv_rotate h delta
  | endFrame => exact inv_stopWith_of_running h hrun (by decide)
  | malformed sub => exact inv_emit h rfl

theorem inv_respondResult {s : State} (h : Inv s) (hrun : s.run = .running) (r : Resp) :
    Inv (respondResult r s) := by
  cases r with
  | line l =>
    rw [respondResult_line]
    exact inv_execResult (inv_clearIdle h) hrun _
  | noData => exact inv_onNoData h hrun
  | exhausted => exact inv_onExhausted h hrun
  | failure => exact inv_onFailure h hrun

/-! ### The two steps -/

/-- Settles O47: a step is one response of a RUNNING state, and taking it touches nothing the invariant reads. -/
theorem stepKeepsInvariant : Obligations.StepKeepsInvariant := by
  intro s t h hstep
  obtain ⟨hrun, rfl⟩ := step_next hstep
  have htaken : Inv (takeResponse s).2 :=
    inv_congr h (takeResponse_buf s) (takeResponse_run s) (takeResponse_cause s) (takeResponse_idle s)
      (takeResponse_emptyPollLimit s) (takeResponse_out s)
  exact inv_respondResult htaken ((takeResponse_run s).trans hrun) _

/-- The state an input event leads to. -/
def serialResult (e : InEv) (s : State) : State :=
  let t := setParser (parserAfter e s.parser) s
  match e with
  | .char _ => t
  | .eol => execResult (eolFrame s.parser) (clearIdle t)
  | .noData => onNoData t
  | .exhausted => onExhausted t
  | .failure => onFailure t

/-- Everything the byte-serial step can do in a RUNNING state. -/
theorem serialStep_running {s : State} (hrun : s.run = .running) (e : InEv) :
    serialStep e s = .next (serialResult e s) := by
  cases e <;> simp [serialStep, serialResult, hrun, exec_eq]

theorem serialStep_stopped {s : State} (hstop : s.run = .stopped) (e : InEv) :
    serialStep e s = .fault .stopped := by
  simp [serialStep, hstop]

theorem inv_setParser {s : State} (h : Inv s) (p : Parser) : Inv (setParser p s) :=
  inv_congr h rfl rfl rfl rfl rfl rfl

/-- Settles O48: an event sets the parser's registers, which the invariant does not read, and then does what a response
or an instruction does. -/
theorem serialStepKeepsInvariant : Obligations.SerialStepKeepsInvariant := by
  intro e s t h hstep
  cases hrun : s.run with
  | stopped => simp [serialStep_stopped hrun] at hstep
  | running =>
    rw [serialStep_running hrun] at hstep
    obtain rfl := Host.Outcome.next.inj hstep
    have hparser := inv_setParser h (parserAfter e s.parser)
    cases e with
    | char b => exact hparser
    | eol => exact inv_execResult (inv_clearIdle hparser) hrun _
    | noData => exact inv_onNoData hparser hrun
    | exhausted => exact inv_onExhausted hparser hrun
    | failure => exact inv_onFailure hparser hrun

/-! ### Reset -/

/-- Settles O46: the buffer and the event log are empty, and the count 0 is below every legal limit. -/
theorem invariantAtReset : Obligations.InvariantAtReset := fun _ =>
  { buf_wf := Memory.wf_nil
    no_lower := by simp [Memory.bytes]
    cause_none := by simp
    idle_lt := fun n _ _ => n.pos
    idle_le := fun n _ => Nat.zero_le n.n
    finished_not_yet := fun _ => rfl
    finished_once := fun h => by simp at h
    finished_buffer := fun h => by simp at h }

/-- Settles O2: every field of R23's table is that of the reset state, so is the invariant; the input is kept. -/
theorem resetFromAnyStateRestarts : Obligations.ResetFromAnyStateRestarts :=
  fun limit _ => ⟨rfl, rfl, rfl, rfl, rfl, inv_congr (invariantAtReset limit) rfl rfl rfl rfl rfl rfl, rfl⟩

/-! ### `Finished` along a run -/

theorem inv_runResponses {rs : List Resp} {s t : State} (h : Inv s) (hrun : runResponses rs s = .next t) : Inv t := by
  induction rs generalizing s with
  | nil => exact Host.Outcome.next.inj hrun ▸ h
  | cons r rs ih =>
    cases hs : s.run with
    | stopped =>
      rw [runResponses_stopped hs] at hrun
      exact Host.Outcome.next.inj hrun ▸ h
    | running =>
      rw [runResponses_cons hs] at hrun
      exact ih (inv_respondResult h hs r) hrun

/-- R82: the events a response adds to a RUNNING machine: one `Finished`, with the buffer, if it stops, else none. -/
def FinishedAsStopped (evs : List Event) (t : State) : Prop :=
  (t.run = .running ∧ evs.countP isFinished = 0) ∨
  (t.run = .stopped ∧ evs.countP isFinished = 1 ∧ Event.finished (render t) ∈ evs)

theorem execResult_out (i : Instr) {s : State} (hrun : s.run = .running) :
    ∃ evs, (execResult i s).out = s.out ++ evs ∧ FinishedAsStopped evs (execResult i s) := by
  cases i with
  | data c => exact ⟨[], by simp, .inl ⟨hrun, rfl⟩⟩
  | dataSpace => exact ⟨[], by simp, .inl ⟨hrun, rfl⟩⟩
  | remap delta => exact ⟨[], by simp, .inl ⟨hrun, rfl⟩⟩
  | endFrame => exact ⟨[.finished (render s)], rfl, .inr ⟨rfl, rfl, List.mem_cons_self⟩⟩
  | malformed sub => exact ⟨[.err .malformedFrame sub], rfl, .inl ⟨hrun, rfl⟩⟩

theorem respondResult_out (r : Resp) {s : State} (hrun : s.run = .running) :
    ∃ evs, (respondResult r s).out = s.out ++ evs ∧ FinishedAsStopped evs (respondResult r s) := by
  cases r with
  | line l =>
    rw [respondResult_line]
    exact execResult_out (decode l) (s := clearIdle s) hrun
  | noData =>
    rw [respondResult_noData, onNoData_eq]
    split
    · exact ⟨[.finished (render s)], rfl, .inr ⟨rfl, rfl, List.mem_cons_self⟩⟩
    · exact ⟨[], by simp, .inl ⟨hrun, rfl⟩⟩
  | exhausted => exact ⟨[.finished (render s)], rfl, .inr ⟨rfl, rfl, List.mem_cons_self⟩⟩
  | failure =>
    exact ⟨[.finished (render s), .fail], by simp, .inr ⟨rfl, rfl, List.mem_cons_self⟩⟩

/-- Settles O49: each step by the events its response adds, and a run from reset by the invariant it keeps. -/
theorem finishedExactlyOncePerRun : Obligations.FinishedExactlyOncePerRun := by
  refine ⟨fun s t hstep => ?_, fun limit rs t hrun => ?_⟩
  · obtain ⟨hrun, rfl⟩ := step_next hstep
    obtain ⟨evs, hout, hevs⟩ := respondResult_out (takeResponse s).1 ((takeResponse_run s).trans hrun)
    rw [takeResponse_out] at hout
    rw [finishedCount, hout, List.countP_append, List.drop_left, ← finishedCount]
    obtain ⟨ht, hcount⟩ | ⟨ht, hcount, hmem⟩ := hevs
    · simp [ht, hcount]
    · simp [ht, hcount, hmem]
  · have h := inv_runResponses (invariantAtReset limit) hrun
    exact ⟨h.finished_not_yet, fun hstop => ⟨h.finished_once hstop, h.finished_buffer hstop⟩⟩

end Sys2Proof.Machine
end

section
/-! PROOF. The opcode table (R53): a row fits a line exactly when the decoder gives the row's mnemonic. -/

namespace Sys2Proof

/-! ### The leading bytes as a number -/

/-- The number `n` with the bytes read on after it, most significant first (R53). -/
def readBytes (n : Nat) (l : Line) : Nat := l.foldl (fun n b => 256 * n + b.toNat) n

@[simp] theorem readBytes_nil (n : Nat) : readBytes n [] = n := rfl
@[simp] theorem readBytes_cons (n : Nat) (b : Byte) (l : Line) :
    readBytes n (b :: l) = readBytes (256 * n + b.toNat) l := rfl

theorem leadingNumber_eq (w : Nat) (l : Line) : leadingNumber w l = readBytes 0 (l.take w) := rfl

/-- A bitwise `AND` of two numbers is that of their last bytes and that of the rest. -/
theorem and_byte (m n : Nat) (a b : Byte) :
    (256 * m + a.toNat) &&& (256 * n + b.toNat) = 256 * (m &&& n) + (a &&& b).toNat := by
  have hdiv : ((256 * m + a.toNat) &&& (256 * n + b.toNat)) / 2 ^ 8 = m &&& n := by
    rw [Nat.and_div_two_pow]
    congr 1 <;> omega
  have hmod : ((256 * m + a.toNat) &&& (256 * n + b.toNat)) % 2 ^ 8 = (a &&& b).toNat := by
    rw [Nat.and_mod_two_pow, BitVec.toNat_and]
    congr 1 <;> omega
  omega

/-- Masking the number of a byte string masks it byte by byte. -/
theorem readBytes_and {l mask : Line} (hlen : l.length = mask.length) (m n : Nat) :
    readBytes m l &&& readBytes n mask = readBytes (m &&& n) (l.zipWith (· &&& ·) mask) := by
  induction l generalizing mask m n with
  | nil =>
    obtain rfl := List.length_eq_zero_iff.mp hlen.symm
    rfl
  | cons a l ih =>
    obtain ⟨b, mask, rfl⟩ := List.exists_cons_of_length_eq_add_one hlen.symm
    rw [readBytes_cons, readBytes_cons, ih (by simpa using hlen), and_byte]
    rfl

/-- Byte strings of one length with one number are the same. -/
theorem readBytes_inj {l l' : Line} (hlen : l.length = l'.length) {m n : Nat} :
    readBytes m l = readBytes n l' ↔ m = n ∧ l = l' := by
  induction l generalizing l' m n with
  | nil =>
    obtain rfl := List.length_eq_zero_iff.mp hlen.symm
    simp
  | cons a l ih =>
    obtain ⟨b, l', rfl⟩ := List.exists_cons_of_length_eq_add_one hlen.symm
    have hbyte : 256 * m + a.toNat = 256 * n + b.toNat ↔ m = n ∧ a = b := by
      rw [← BitVec.toNat_inj]
      omega
    rw [readBytes_cons, readBytes_cons, ih (by simpa using hlen), hbyte, List.cons.injEq, and_assoc]

/-- Match under mask compares the masked leading bytes with the row's, where the line is long enough (R53). -/
theorem leadingNumber_and_eq_iff {l mask pat : Line} (hlen : mask.length ≤ l.length)
    (hpat : pat.length = mask.length) :
    leadingNumber mask.length l &&& readBytes 0 mask = readBytes 0 pat ↔
      (l.take mask.length).zipWith (· &&& ·) mask = pat := by
  have htake : (l.take mask.length).length = mask.length := by simpa using hlen
  rw [leadingNumber_eq, readBytes_and htake, readBytes_inj (by simp [htake, hpat])]
  simp

theorem and_fullByte (b : Byte) : b &&& 0xFF#8 = b := BitVec.and_allOnes

theorem zipWith_and_fullMask (l : Line) : l.zipWith (· &&& ·) (List.replicate l.length 0xFF#8) = l := by
  induction l with
  | nil => rfl
  | cons b l ih => rw [List.length_cons, List.replicate_succ, List.zipWith_cons_cons, ih, and_fullByte]

/-- Under a full mask the leading bytes are compared as they are. -/
theorem leadingNumber_and_full_iff {l pat : Line} (hlen : pat.length ≤ l.length) :
    leadingNumber pat.length l &&& readBytes 0 (List.replicate pat.length 0xFF#8) = readBytes 0 pat ↔
      l.take pat.length = pat := by
  have htake : (l.take pat.length).length = pat.length := by simpa using hlen
  have hmask := zipWith_and_fullMask (l.take pat.length)
  have h := leadingNumber_and_eq_iff (mask := List.replicate pat.length 0xFF#8) (pat := pat) (l := l)
    (by simpa using hlen) (by simp)
  rw [List.length_replicate] at h
  rw [htake] at hmask
  rw [h, hmask]

/-! ### The four frame rows -/

/-- The DATA row of R53. -/
def dataRow : OpcodeRow := ⟨"DATA", 3, 0x4C2C00, 0xFFFF00, .exactly 3, .unconstrained⟩
/-- The DATA.SPACE row of R53. -/
def dataSpaceRow : OpcodeRow := ⟨"DATA.SPACE", 7, 0x4C2C5370616365, 0xFFFFFFFFFFFFFF, .exactly 7, .unconstrained⟩
/-- The REMAP row of R53. -/
def remapRow : OpcodeRow := ⟨"REMAP", 2, 0x4D2C, 0xFFFF, .atLeast 3, .numeral⟩
/-- The END row of R53. -/
def endRow : OpcodeRow := ⟨"END", 3, 0x454E44, 0xFFFFFF, .exactly 3, .unconstrained⟩

theorem frameRows_eq : frameRows = [dataRow, dataSpaceRow, remapRow, endRow] := rfl

/-- The payload byte of a DATA line is masked out. -/
theorem dataRow_fits_iff (l : Line) : dataRow.fits l = true ↔ ∃ c, l = prefixData ++ [c] := by
  have hfits : dataRow.fits l = true ↔ l.length = 3 ∧ leadingNumber 3 l &&& 0xFFFF00 = 0x4C2C00 := by
    simp [dataRow, OpcodeRow.fits, LengthRule.holds]
  have hmask (a b c : Byte) :
      leadingNumber 3 [a, b, c] &&& 0xFFFF00 = 0x4C2C00 ↔ a = 0x4C#8 ∧ b = 0x2C#8 :=
    (leadingNumber_and_eq_iff (mask := [0xFF#8, 0xFF#8, 0x00#8]) (pat := [0x4C#8, 0x2C#8, 0x00#8]) (by simp) rfl).trans
      (by simp [and_fullByte])
  rw [hfits]
  constructor
  · rintro ⟨hlen, hmatch⟩
    obtain ⟨a, b, c, rfl⟩ := List.length_eq_three.mp hlen
    obtain ⟨rfl, rfl⟩ := (hmask a b c).mp hmatch
    exact ⟨c, rfl⟩
  · rintro ⟨c, rfl⟩
    exact ⟨rfl, (hmask _ _ c).mpr ⟨rfl, rfl⟩⟩

/-- A line that a row with a full mask fits in all its bytes is the row's pattern. -/
theorem fits_exactly_iff (pat l : Line) :
    (l.length = pat.length ∧
      leadingNumber pat.length l &&& readBytes 0 (List.replicate pat.length 0xFF#8) = readBytes 0 pat) ↔
      l = pat := by
  constructor
  · rintro ⟨hlen, hmatch⟩
    have htake := (leadingNumber_and_full_iff hlen.ge).mp hmatch
    rwa [← hlen, List.take_length] at htake
  · rintro rfl
    exact ⟨rfl, (leadingNumber_and_full_iff le_rfl).mpr (List.take_length)⟩

theorem dataSpaceRow_fits_iff (l : Line) : dataSpaceRow.fits l = true ↔ l = prefixData ++ tokenSpace := by
  have hfits : dataSpaceRow.fits l = true ↔
      l.length = 7 ∧ leadingNumber 7 l &&& 0xFFFFFFFFFFFFFF = 0x4C2C5370616365 := by
    simp [dataSpaceRow, OpcodeRow.fits, LengthRule.holds]
  exact hfits.trans (fits_exactly_iff (prefixData ++ tokenSpace) l)

theorem endRow_fits_iff (l : Line) : endRow.fits l = true ↔ l = tokenEnd := by
  have hfits : endRow.fits l = true ↔ l.length = 3 ∧ leadingNumber 3 l &&& 0xFFFFFF = 0x454E44 := by
    simp [endRow, OpcodeRow.fits, LengthRule.holds]
  exact hfits.trans (fits_exactly_iff tokenEnd l)

theorem Numeral.ne_nil {p : List Byte} : Numeral p → p ≠ []
  | ⟨_, hne, _, .inl h⟩ => h ▸ hne
  | ⟨_, _, _, .inr h⟩ => h ▸ List.cons_ne_nil _ _

/-- The tail of the REMAP row is the grammar of numerals, which asks for the third byte itself. -/
theorem remapRow_fits_iff (l : Line) :
    remapRow.fits l = true ↔ l.take 2 = prefixRemap ∧ Numeral (l.drop 2) := by
  have hfits : remapRow.fits l = true ↔
      (3 ≤ l.length ∧ leadingNumber 2 l &&& 0xFFFF = 0x4D2C) ∧ Numeral (l.drop 2) := by
    simp [remapRow, OpcodeRow.fits, LengthRule.holds, isNumeral_iff]
  have hlong : Numeral (l.drop 2) → 3 ≤ l.length := by
    intro hp
    by_contra hlen
    exact hp.ne_nil (List.drop_eq_nil_iff.mpr (by omega))
  have hprefix : 3 ≤ l.length → (leadingNumber 2 l &&& 0xFFFF = 0x4D2C ↔ l.take 2 = prefixRemap) := fun hlen =>
    leadingNumber_and_full_iff (pat := prefixRemap) (by simp; omega)
  rw [hfits]
  exact ⟨fun ⟨⟨hlen, hmatch⟩, hp⟩ => ⟨(hprefix hlen).mp hmatch, hp⟩,
    fun ⟨htake, hp⟩ => ⟨⟨hlong hp, (hprefix (hlong hp)).mpr htake⟩, hp⟩⟩

/-! ### Rows and mnemonics -/

theorem exists_decode_eq_remap_iff (l : Line) :
    (∃ delta, decode l = .remap delta) ↔ l.take 2 = prefixRemap ∧ Numeral (l.drop 2) := by
  constructor
  · rintro ⟨delta, h⟩
    cases lineForm_of_decode h with
    | remap hne hd => exact ⟨rfl, _, hne, hd, .inl rfl⟩
    | remapNeg hne hd => exact ⟨rfl, _, hne, hd, .inr rfl⟩
  · rintro ⟨htake, d, hne, hd, h | h⟩
    · rw [eq_append_of_take htake, h]
      exact ⟨_, decode_of_lineForm (.remap hne hd)⟩
    · rw [eq_append_of_take htake, h]
      exact ⟨_, decode_of_lineForm (.remapNeg hne hd)⟩

theorem mnemonic_eq_data_iff (i : Instr) : i.mnemonic = "DATA" ↔ ∃ c, i = .data c := by
  cases i <;> simp [Instr.mnemonic]

theorem mnemonic_eq_dataSpace_iff (i : Instr) : i.mnemonic = "DATA.SPACE" ↔ i = .dataSpace := by
  cases i <;> simp [Instr.mnemonic]

theorem mnemonic_eq_remap_iff (i : Instr) : i.mnemonic = "REMAP" ↔ ∃ delta, i = .remap delta := by
  cases i <;> simp [Instr.mnemonic]

theorem mnemonic_eq_end_iff (i : Instr) : i.mnemonic = "END" ↔ i = .endFrame := by
  cases i <;> simp [Instr.mnemonic]

/-- R53: the table's numbers and the decoder's tests pick out the same lines. -/
theorem fits_iff_mnemonic {r : OpcodeRow} (hr : r ∈ frameRows) (l : Line) :
    r.fits l = true ↔ (decode l).mnemonic = r.mnemonic := by
  simp only [frameRows_eq, List.mem_cons, List.not_mem_nil, or_false] at hr
  obtain rfl | rfl | rfl | rfl := hr
  · rw [dataRow_fits_iff]
    exact (exists_congr fun c => (dataFormatExact l c).symm).trans (mnemonic_eq_data_iff _).symm
  · rw [dataSpaceRow_fits_iff, ← decode_eq_dataSpace_iff]
    exact (mnemonic_eq_dataSpace_iff _).symm
  · rw [remapRow_fits_iff, ← exists_decode_eq_remap_iff]
    exact (mnemonic_eq_remap_iff _).symm
  · rw [endRow_fits_iff, ← decode_eq_endFrame_iff]
    exact (mnemonic_eq_end_iff _).symm

theorem frameRows_mnemonic_inj :
    ∀ r₁ ∈ frameRows, ∀ r₂ ∈ frameRows, r₁.mnemonic = r₂.mnemonic → r₁ = r₂ := by
  decide

/-- Every mnemonic but that of the default row has a frame row. -/
theorem mnemonic_mem_or_malformed (i : Instr) :
    (∃ r ∈ frameRows, i.mnemonic = r.mnemonic) ∨ i.mnemonic = defaultRow.mnemonic := by
  cases i <;> simp [frameRows, defaultRow, Instr.mnemonic]

/-- Settles O21: a frame row fits exactly the lines of its mnemonic, and no two rows have one mnemonic. -/
theorem opcodeTableAgreesWithDecoder : Obligations.OpcodeTableAgreesWithDecoder := by
  intro l
  refine ⟨?_, fun r₁ h₁ r₂ h₂ hfit₁ hfit₂ => frameRows_mnemonic_inj r₁ h₁ r₂ h₂ ?_⟩
  · unfold rowOfLine
    split
    · next r hfind =>
      have hfit : r.fits l = true := List.find?_some (p := fun r : OpcodeRow => r.fits l) hfind
      exact ((fits_iff_mnemonic (List.mem_of_find?_eq_some hfind) l).mp hfit).symm
    · next hfind =>
      obtain ⟨r, hr, hmnemonic⟩ | h := mnemonic_mem_or_malformed (decode l)
      · exact absurd ((fits_iff_mnemonic hr l).mpr hmnemonic) (List.find?_eq_none.mp hfind r hr)
      · exact h.symm
  · exact ((fits_iff_mnemonic h₁ l).mp hfit₁).symm.trans ((fits_iff_mnemonic h₂ l).mp hfit₂)

end Sys2Proof
end

section
/-! PROOF. The rotor's algebra and the table behind `map` (R58 to R60, R64, R65), the buffer read back (R27), and the
reset state (R23). -/

namespace Sys2Proof.Machine

/-! ### Rotations -/

/-- R64: only the residue of a delta counts. -/
theorem rotate_emod (a : Int) (s : State) : rotate (a % 26) s = rotate a s := by
  have hshift : residue (s.shift.val + a % 26) = residue (s.shift.val + a) := residue_congr (Int.add_emod_emod ..)
  simp [rotate, hshift]

/-- Settles O10: the sum over Int is reduced at every rotation, so it may be reduced at the end or before. -/
theorem rotationsCompose : Obligations.RotationsCompose :=
  fun a b s => ⟨rotate_rotate a b s, rotate_emod a s⟩

/-! ### `map` -/

theorem isUpper_eq_false_iff {b : Byte} : isUpper b = false ↔ ¬ (0x41 ≤ b.toNat ∧ b.toNat ≤ 0x5A) := by
  rw [← Bool.not_eq_true, isUpper_iff]

/-- Settles O5: the table's entries are consecutive codes, so looking one up is adding its index. -/
theorem mapIsCaesarShift : Obligations.MapIsCaesarShift := by
  intro shift b
  unfold Spec.mapValue
  split
  · next hu => exact mapSymbol_upper shift (isUpper_iff.mpr hu)
  · next hu =>
    split
    · next hl => exact mapSymbol_lower shift (isLower_iff.mpr hl)
    · next hl => rw [mapSymbol_other shift (isUpper_eq_false_iff.mpr hu) (isLower_eq_false_iff.mpr hl)]

/-- Settles O6: a letter's position is below 26, so it stands for itself. -/
theorem alphabeticPositionOfLetters : Obligations.AlphabeticPositionOfLetters := by
  intro b
  refine ⟨fun hu => ⟨_, alphabeticPosition_upper (isUpper_iff.mpr hu), ?_⟩,
    fun hl => ⟨_, alphabeticPosition_lower (isLower_iff.mpr hl), ?_⟩, fun hb => ?_⟩
  · exact Nat.mod_eq_of_lt (by omega)
  · exact Nat.mod_eq_of_lt (by omega)
  · obtain ⟨hu, hl⟩ := not_or.mp (hb ∘ letter_iff.mpr)
    exact alphabeticPosition_other (Bool.eq_false_of_not_eq_true hu) (Bool.eq_false_of_not_eq_true hl)

/-- R65: the shift `26 - s` undoes the shift `s` on the upper-case letters. -/
theorem mapSymbol_inverse (shift : Fin 26) {b : Byte} (hb : isUpper b = true) :
    mapSymbol (Fin.ofNat 26 (26 - shift.val)) (mapSymbol shift b) = b := by
  apply BitVec.eq_of_toNat_eq
  rw [mapSymbol_upper _ (isUpper_mapSymbol shift hb), mapSymbol_upper shift hb, Fin.val_ofNat]
  obtain ⟨hlow, hhigh⟩ := isUpper_iff.mp hb
  omega

theorem inverse_inverse : ∀ shift : Fin 26, Fin.ofNat 26 (26 - (Fin.ofNat 26 (26 - shift.val)).val) = shift := by
  decide

/-- R65: a shift undoes the one that undoes it. -/
theorem mapSymbol_of_inverse (shift : Fin 26) {b : Byte} (hb : isUpper b = true) :
    mapSymbol shift (mapSymbol (Fin.ofNat 26 (26 - shift.val)) b) = b := by
  have h := mapSymbol_inverse (Fin.ofNat 26 (26 - shift.val)) hb
  rwa [inverse_inverse] at h

/-- R58: the lower-case letter 0x20 above an upper-case one has its index, hence its image. -/
theorem mapSymbol_lower_case (shift : Fin 26) {b : Byte} (hb : isUpper b = true) :
    mapSymbol shift (b + 0x20#8) = mapSymbol shift b := by
  obtain ⟨hlow, hhigh⟩ := isUpper_iff.mp hb
  have hcase : (b + 0x20#8).toNat = b.toNat + 0x20 := by
    rw [BitVec.toNat_add, BitVec.toNat_ofNat]
    omega
  have hl : isLower (b + 0x20#8) = true := isLower_iff.mpr (by omega)
  apply BitVec.eq_of_toNat_eq
  rw [mapSymbol_lower shift hl, mapSymbol_upper shift hb, hcase]
  omega

/-- Settles O11: the inverse shift gives both that no two letters have one image and that every letter is an image. -/
theorem mapPermutesUpperCase : Obligations.MapPermutesUpperCase := by
  intro shift
  refine ⟨fun b hb => ⟨isUpper_mapSymbol shift hb, mapSymbol_inverse shift hb, mapSymbol_lower_case shift hb⟩,
    fun b c hb hc himage => ?_, fun c hc => ⟨_, isUpper_mapSymbol _ hc, mapSymbol_of_inverse shift hc⟩,
    isLower_mapSymbol shift⟩
  rw [← mapSymbol_inverse shift hb, himage, mapSymbol_inverse shift hc]

/-! ### Reading the buffer -/

/-- Settles O14: reading an address of a canonical buffer is indexing the rendered sequence. -/
theorem renderAndReadTheBuffer : Obligations.RenderAndReadTheBuffer := by
  intro s hwf
  have hlen : (render s).length = Memory.len s.buf := Memory.length_bytes s.buf
  refine ⟨hlen, fun i hi => ?_, fun i hi => ?_⟩
  · rw [bufRead, Memory.read_eq_bytes hwf, ← render, List.getElem?_eq_getElem hi]
  · rw [bufRead, Memory.read_eq_bytes hwf, ← render, List.getElem?_eq_none (hlen.trans_le hi)]

/-! ### Reset -/

/-- Settles O1: the fields are those of R23's table, and `map` under the shift 0 is the case fold. -/
theorem resetIsDecoderStart : Obligations.ResetIsDecoderStart := by
  refine fun limit => ⟨rfl, rfl, rfl, rfl, rfl, rfl, rfl, fun b => ?_⟩
  rw [resetWith_shift, mapIsCaesarShift, Spec.mapValue, Fin.val_zero]
  split_ifs <;> omega

/-- Settles O3: the configuration is the limit that the request stands for. -/
theorem configurationNeedsPositiveLimit : Obligations.ConfigurationNeedsPositiveLimit :=
  ⟨rfl, rfl, fun limit => by rw [State.configure, checkLimit_some]⟩

end Sys2Proof.Machine
end

section
/-! PROOF. The step on each response (R76 to R81), and runs of empty polls and of malformed lines (R84, R85, R120). -/

namespace Sys2Proof.Machine

/-! ### One response -/

/-- Settles O35: the step is the loop's action on the line, which parses and dispatches it. -/
theorem stepRunsDecodedLine : Obligations.StepRunsDecodedLine :=
  fun _ _ _ hrun hin => step_of_input_line hrun hin

/-- Settles O36: where nothing is placed the response taken is the free one. -/
theorem stepOnFreeResponse : Obligations.StepOnFreeResponse := by
  intro s hrun hin
  rw [step_running hrun, takeResponse_nil hin]

theorem onNoData_of_reached {s : State} (h : limitReached s.emptyPollLimit (s.idle + 1) = true) :
    onNoData s = stopWith .idle (countEmptyPoll s) := by
  rw [onNoData_eq, if_pos h]

theorem onNoData_of_not_reached {s : State} (h : limitReached s.emptyPollLimit (s.idle + 1) = false) :
    onNoData s = countEmptyPoll s := by
  rw [onNoData_eq, if_neg (ne_true_of_eq_false h)]

theorem onNoData_of_no_limit {s : State} (h : s.emptyPollLimit = none) : onNoData s = countEmptyPoll s :=
  onNoData_of_not_reached (by rw [h, limitReached_none])

theorem onNoData_below {s : State} {limit : PollLimit} (h : s.emptyPollLimit = some limit)
    (hidle : s.idle + 1 < limit.n) : onNoData s = countEmptyPoll s :=
  onNoData_of_not_reached (by rw [h, limitReached_some, decide_eq_false (Nat.not_le.mpr hidle)])

theorem onNoData_at_limit {s : State} {limit : PollLimit} (h : s.emptyPollLimit = some limit)
    (hidle : limit.n ≤ s.idle + 1) : onNoData s = stopWith .idle (countEmptyPoll s) :=
  onNoData_of_reached (by rw [h, limitReached_some, decide_eq_true hidle])

theorem step_of_input_noData {s : State} {rest : List Resp} (hrun : s.run = .running)
    (hin : s.input = .noData :: rest) : step s = .next (onNoData { s with input := rest }) :=
  step_of_input_cons hrun hin

/-- Settles O38: the three cases of the loop's action on an empty poll. -/
theorem noDataCountsAndStopsAtLimit : Obligations.NoDataCountsAndStopsAtLimit := by
  intro s rest hrun hin
  rw [step_of_input_noData hrun hin]
  exact ⟨fun h => congrArg Host.Outcome.next (onNoData_of_no_limit (s := { s with input := rest }) h),
    fun _ h hidle => congrArg Host.Outcome.next (onNoData_below (s := { s with input := rest }) h hidle),
    fun _ h hidle => congrArg Host.Outcome.next (onNoData_at_limit (s := { s with input := rest }) h hidle)⟩

/-- Settles O39: both are `stop`, with one `Finished`, and differ in the cause they are given. -/
theorem exhaustedStopsLikeEnd : Obligations.ExhaustedStopsLikeEnd := by
  intro s rest hrun hin
  have hstep : step s = .next (stopWith .exhausted { s with input := rest }) := step_of_input_cons hrun hin
  exact ⟨hstep, _, exec_endFrame _, hstep⟩

/-- R80: `Finished`, then `Fail`, and no other field written than by `stop`. -/
theorem onFailure_eq (s : State) : onFailure s =
    { s with run := .stopped, cause := .failure, out := s.out ++ [.finished (render s), .fail] } := by
  simp [onFailure, stopWith_eq, emit]

/-- Settles O40: `stop(FAILURE)` emits `Finished`, and `Fail` is emitted after it. -/
theorem failureStopsAndSurfaces : Obligations.FailureStopsAndSurfaces := by
  intro s rest hrun hin
  have hstep : step s = .next (onFailure { s with input := rest }) := step_of_input_cons hrun hin
  rw [hstep, onFailure_eq]
  rfl

/-- Settles O41: neither step is defined in a STOPPED state, and a run ends there. -/
theorem stoppedHasNoStep : Obligations.StoppedHasNoStep :=
  fun _ hstop => ⟨step_stopped hstop, serialStep_stopped hstop, runResponses_stopped hstop⟩

/-- Settles O52: the step responds to the first response in the state the run starts from. -/
theorem runFollowsTheStep : Obligations.RunFollowsTheStep := by
  intro s r rs rest hrun hin
  exact ⟨_, (step_of_input_cons hrun hin).trans (respond_eq _ _), runResponses_cons (by exact hrun) r rs⟩

/-! ### Empty polls -/

theorem runResponses_noData_succ {s : State} (hrun : s.run = .running) (k : Nat) :
    runResponses (List.replicate (k + 1) .noData) s = runResponses (List.replicate k .noData) (onNoData s) := by
  rw [List.replicate_succ, runResponses_cons hrun, respondResult_noData]

/-- R85: without a limit no number of empty polls stops the machine. -/
theorem runResponses_noData_of_no_limit (k : Nat) {s : State} (hrun : s.run = .running)
    (hlimit : s.emptyPollLimit = none) :
    ∃ t, runResponses (List.replicate k .noData) s = .next t ∧ t.run = .running ∧ t.idle = s.idle + k := by
  induction k generalizing s with
  | zero => exact ⟨s, rfl, hrun, rfl⟩
  | succ k ih =>
    rw [runResponses_noData_succ hrun, onNoData_of_no_limit hlimit]
    obtain ⟨t, ht, htrun, hidle⟩ := ih (s := countEmptyPoll s) hrun hlimit
    exact ⟨t, ht, htrun, by rw [hidle, countEmptyPoll_idle]; omega⟩

/-- R85, D13: under a limit the poll that brings the count to it stops the machine, and no poll after it is
taken. -/
theorem runResponses_noData_of_limit (k : Nat) {s : State} {limit : PollLimit} (hrun : s.run = .running)
    (hlimit : s.emptyPollLimit = some limit) (hidle : s.idle < limit.n) :
    ∃ t, runResponses (List.replicate k .noData) s = .next t ∧
      (s.idle + k < limit.n → t.run = .running ∧ t.idle = s.idle + k) ∧
      (limit.n ≤ s.idle + k → t.run = .stopped ∧ t.cause = .idle ∧ t.idle = limit.n) := by
  induction k generalizing s with
  | zero => exact ⟨s, rfl, fun _ => ⟨hrun, rfl⟩, fun h => absurd hidle (Nat.not_lt.mpr h)⟩
  | succ k ih =>
    rw [runResponses_noData_succ hrun]
    rcases Nat.lt_or_ge (s.idle + 1) limit.n with hbelow | hat
    · rw [onNoData_below hlimit hbelow]
      obtain ⟨t, ht, hcount, hstop⟩ := ih (s := countEmptyPoll s) hrun hlimit hbelow
      rw [countEmptyPoll_idle, Nat.add_right_comm] at hcount hstop
      exact ⟨t, ht, hcount, hstop⟩
    · rw [onNoData_at_limit hlimit hat, runResponses_stopped (stopWith_run _ _)]
      exact ⟨_, rfl, fun h => by omega, fun _ => ⟨rfl, rfl, Nat.le_antisymm hidle hat⟩⟩

/-- Settles O50: by induction on the number of polls, without a limit and with one. -/
theorem emptyPollsEndOnlyUnderALimit : Obligations.EmptyPollsEndOnlyUnderALimit :=
  fun _ k hrun => ⟨runResponses_noData_of_no_limit k hrun, fun _ => runResponses_noData_of_limit k hrun⟩

/-! ### A malformed line in front of a stream -/

/-- The state with another event log: the output that no step reads (R21). -/
def withOut (out : List Event) (s : State) : State := { s with out := out }

/-- Whatever log an instruction finds, it does the same and adds the same events. -/
theorem execResult_withOut (i : Instr) (s : State) :
    ∃ evs, ∀ out, execResult i (withOut out s) = withOut (out ++ evs) (execResult i s) := by
  cases i with
  | data c => exact ⟨[], fun out => by rw [List.append_nil]; rfl⟩
  | dataSpace => exact ⟨[], fun out => by rw [List.append_nil]; rfl⟩
  | remap delta => exact ⟨[], fun out => by rw [List.append_nil]; rfl⟩
  | endFrame => exact ⟨[.finished (render s)], fun _ => rfl⟩
  | malformed sub => exact ⟨[.err .malformedFrame sub], fun _ => rfl⟩

theorem respondResult_withOut (r : Resp) (s : State) :
    ∃ evs, ∀ out, respondResult r (withOut out s) = withOut (out ++ evs) (respondResult r s) := by
  cases r with
  | line l =>
    simp only [respondResult_line]
    exact execResult_withOut (decode l) (clearIdle s)
  | noData =>
    cases h : limitReached s.emptyPollLimit (s.idle + 1) with
    | true =>
      refine ⟨[.finished (render s)], fun out => ?_⟩
      rw [respondResult_noData, respondResult_noData, onNoData_of_reached h, onNoData_of_reached (s := withOut out s) h]
      rfl
    | false =>
      refine ⟨[], fun out => ?_⟩
      rw [respondResult_noData, respondResult_noData, onNoData_of_not_reached h,
        onNoData_of_not_reached (s := withOut out s) h, List.append_nil]
      rfl
  | exhausted => exact ⟨[.finished (render s)], fun _ => rfl⟩
  | failure => exact ⟨[.finished (render s)] ++ [.fail], fun out => by rw [← List.append_assoc]; rfl⟩

/-- A run from any log ends in the same state, with the same events added. -/
theorem runResponses_withOut (rs : List Resp) (s : State) :
    ∃ t evs, ∀ out, runResponses rs (withOut out s) = .next (withOut (out ++ evs) t) := by
  induction rs generalizing s with
  | nil => exact ⟨s, [], fun out => by rw [List.append_nil]; rfl⟩
  | cons r rs ih =>
    cases hrun : s.run with
    | stopped => exact ⟨s, [], fun out => by rw [List.append_nil, runResponses_stopped (by exact hrun)]⟩
    | running =>
      obtain ⟨evs, hevs⟩ := respondResult_withOut r s
      obtain ⟨t, evs', ht⟩ := ih (respondResult r s)
      refine ⟨t, evs ++ evs', fun out => ?_⟩
      rw [runResponses_cons (by exact hrun), hevs, ht, List.append_assoc]

/-- Settles O51: from idle 0 the line changes the event log alone, which the run after it does not read. -/
theorem malformedLineLeavesNoTrace : Obligations.MalformedLineLeavesNoTrace := by
  intro s l sub rs hrun hidle hl
  have hline : respondResult (.line l) s = withOut (s.out ++ [.err .malformedFrame sub]) s := by
    rw [respondResult_line, hl, execResult_malformed, withOut]
    simp [raiseMalformed, emit, clearIdle, ← hidle]
  obtain ⟨t, evs, ht⟩ := runResponses_withOut rs s
  refine ⟨withOut (s.out ++ [.err .malformedFrame sub] ++ evs) t, withOut (s.out ++ evs) t, evs, ?_, ht s.out,
    rfl, rfl, rfl⟩
  rw [runResponses_cons hrun, hline, ht]

end Sys2Proof.Machine
end

section
/-! PROOF. The byte-serial parser (R86 to R94): along the literals, the numeral and the classes of malformed lines it
reaches the frame that the grammar gives, so the byte-serial machine refines the line-level one. -/

namespace Sys2Proof.Machine

/-- The parser's registers after the characters of a line. -/
def parseChars (l : Line) (p : Parser) : Parser := l.foldl (fun q b => charStep b q) p

@[simp] theorem parseChars_nil (p : Parser) : parseChars [] p = p := rfl
@[simp] theorem parseChars_cons (b : Byte) (l : Line) (p : Parser) :
    parseChars (b :: l) p = parseChars l (charStep b p) := rfl

/-! ### States that a line cannot leave -/

/-- R88 to R90: BAD_U, BAD_D and BAD_N are left by the end of the line only. -/
theorem parseChars_bad {p : Parser} (hp : p.ps = .badU ∨ p.ps = .badD ∨ p.ps = .badN) (l : Line) :
    parseChars l p = p := by
  have hstay : ∀ b, charStep b p = p := by
    intro b
    obtain h | h | h := hp <;> simp [charStep, h]
  induction l with
  | nil => rfl
  | cons b l ih => rw [parseChars_cons, hstay, ih]

theorem eolFrame_parseChars_badU {p : Parser} (hp : p.ps = .badU) (l : Line) :
    eolFrame (parseChars l p) = .malformed .unrecognized := by
  rw [parseChars_bad (.inl hp), eolFrame, hp]

theorem eolFrame_parseChars_badD {p : Parser} (hp : p.ps = .badD) (l : Line) :
    eolFrame (parseChars l p) = .malformed .badDataPayload := by
  rw [parseChars_bad (.inr (.inl hp)), eolFrame, hp]

theorem eolFrame_parseChars_badN {p : Parser} (hp : p.ps = .badN) (l : Line) :
    eolFrame (parseChars l p) = .malformed .nonNumeric := by
  rw [parseChars_bad (.inr (.inr hp)), eolFrame, hp]

/-! ### Literals: the rest of `Space` and of `END` -/

/-- From a parser in `ps`, the characters of `rest` and no others give `hit`; any others give `miss`. -/
def ReadsLiteral (ps : ParseState) (rest : Line) (hit miss : Instr) : Prop :=
  ∀ (p : Parser) (l : Line), p.ps = ps → eolFrame (parseChars l p) = if l = rest then hit else miss

section Literals

variable {ps bad : ParseState} {hit miss : Instr}

/-- A state that only the end of the line may follow. -/
theorem readsLiteral_nil (hbad : ∀ {p : Parser}, p.ps = bad → ∀ l, eolFrame (parseChars l p) = miss)
    (hend : ∀ p : Parser, p.ps = ps → eolFrame p = hit)
    (hstep : ∀ (p : Parser) (b : Byte), p.ps = ps → charStep b p = { p with ps := bad }) :
    ReadsLiteral ps [] hit miss := by
  intro p l hp
  cases l with
  | nil => simpa using hend p hp
  | cons b l => simpa [hstep p b hp] using hbad (p := { p with ps := bad }) rfl l

/-- A state that one character `k` may follow, and after it the rest of the literal. -/
theorem ReadsLiteral.cons {ps' : ParseState} {k : Byte} {rest : Line} (hrest : ReadsLiteral ps' rest hit miss)
    (hbad : ∀ {p : Parser}, p.ps = bad → ∀ l, eolFrame (parseChars l p) = miss)
    (hend : ∀ p : Parser, p.ps = ps → eolFrame p = miss)
    (hstep : ∀ (p : Parser) (b : Byte), p.ps = ps →
      charStep b p = if b = k then { p with ps := ps' } else { p with ps := bad }) :
    ReadsLiteral ps (k :: rest) hit miss := by
  intro p l hp
  cases l with
  | nil => simpa using hend p hp
  | cons b l =>
    rw [parseChars_cons, hstep p b hp]
    by_cases hb : b = k
    · simpa [hb] using hrest { p with ps := ps' } l rfl
    · simpa [hb] using hbad (p := { p with ps := bad }) rfl l

end Literals

/-- R89: `Space` from its third character on. -/
theorem readsLiteral_sp2 :
    ReadsLiteral .sp2 [0x61#8, 0x63#8, 0x65#8] .dataSpace (.malformed .badDataPayload) := by
  have hspace : ReadsLiteral .space [] .dataSpace (.malformed .badDataPayload) :=
    readsLiteral_nil eolFrame_parseChars_badD (by simp +contextual [eolFrame])
      (by simp +contextual [charStep])
  have hsp4 := hspace.cons (ps := .sp4) (k := 0x65#8) eolFrame_parseChars_badD
    (by simp +contextual [eolFrame]) (by simp +contextual [charStep])
  have hsp3 := hsp4.cons (ps := .sp3) (k := 0x63#8) eolFrame_parseChars_badD
    (by simp +contextual [eolFrame]) (by simp +contextual [charStep])
  exact hsp3.cons eolFrame_parseChars_badD
    (by simp +contextual [eolFrame]) (by simp +contextual [charStep])

/-- R88: `END` from its second character on. -/
theorem readsLiteral_e : ReadsLiteral .e [0x4E#8, 0x44#8] .endFrame (.malformed .unrecognized) := by
  have hend3 : ReadsLiteral .end3 [] .endFrame (.malformed .unrecognized) :=
    readsLiteral_nil eolFrame_parseChars_badU (by simp +contextual [eolFrame])
      (by simp +contextual [charStep])
  have hen := hend3.cons (ps := .en) (k := 0x44#8) eolFrame_parseChars_badU
    (by simp +contextual [eolFrame]) (by simp +contextual [charStep])
  exact hen.cons eolFrame_parseChars_badU
    (by simp +contextual [eolFrame]) (by simp +contextual [charStep])

/-! ### The first two characters of a line, and lines without a payload -/

theorem parseChars_prefixData {p : Parser} (hp : p.ps = .start) (l : Line) :
    parseChars (prefixData ++ l) p = parseChars l { p with ps := .lc } := by
  simp [charStep, hp]

theorem parseChars_prefixRemap {p : Parser} (hp : p.ps = .start) (l : Line) :
    parseChars (prefixRemap ++ l) p = parseChars l { p with ps := .mc } := by
  simp [charStep, hp]

/-- R88: a line that starts neither `L,` nor `M,` and is not `END` leaves the literals at some character. -/
theorem eolFrame_parseChars_unrecognized {p : Parser} (hp : p.ps = .start) {l : Line}
    (hdata : l.take 2 ≠ prefixData) (hremap : l.take 2 ≠ prefixRemap) (hend : l ≠ tokenEnd) :
    eolFrame (parseChars l p) = .malformed .unrecognized := by
  cases l with
  | nil => simp [eolFrame, hp]
  | cons a l =>
    by_cases ha : a = 0x4C#8 ∨ a = 0x4D#8
    · cases l with
      | nil => obtain rfl | rfl := ha <;> simp [charStep, eolFrame, hp]
      | cons b l =>
        have hb : b ≠ 0x2C#8 := by
          rintro rfl
          obtain rfl | rfl := ha
          · exact hdata rfl
          · exact hremap rfl
        have hbad : (charStep b (charStep a p)).ps = .badU := by
          obtain rfl | rfl := ha <;> simp [charStep, hp, hb]
        exact eolFrame_parseChars_badU hbad l
    · obtain ⟨hL, hM⟩ := not_or.mp ha
      by_cases hE : a = 0x45#8
      · subst hE
        have he : (charStep 0x45#8 p).ps = .e := by simp [charStep, hp]
        rw [parseChars_cons, readsLiteral_e _ l he, if_neg]
        rintro rfl
        exact hend rfl
      · have hbad : (charStep a p).ps = .badU := by simp [charStep, hp, hL, hM, hE]
        exact eolFrame_parseChars_badU hbad l

/-- R89: two or more bytes after `L,` that are not `Space`. -/
theorem eolFrame_parseChars_badData {p : Parser} (hp : p.ps = .lc) {l : Line} (hlen : 2 ≤ l.length)
    (hspace : l ≠ tokenSpace) : eolFrame (parseChars l p) = .malformed .badDataPayload := by
  match l with
  | [] | [_] => simp at hlen
  | a :: b :: l =>
    have hstep : charStep b (charStep a p) =
        if a = 0x53#8 ∧ b = 0x70#8 then { p with ps := .sp2, c := a } else { p with ps := .badD, c := a } := by
      simp [charStep, hp]
    rw [parseChars_cons, parseChars_cons, hstep]
    split
    · next hab =>
      obtain ⟨rfl, rfl⟩ := hab
      rw [readsLiteral_sp2 _ l rfl, if_neg]
      rintro rfl
      exact hspace rfl
    · exact eolFrame_parseChars_badD rfl l

/-! ### Numerals -/

theorem allDigits_cons_iff {b : Byte} {d : List Byte} :
    Spec.AllDigits (b :: d) ↔ isDigit b = true ∧ Spec.AllDigits d := by
  simp only [allDigits_iff, List.forall_mem_cons]

theorem charStep_mnum_digit {p : Parser} (hp : p.ps = .mnum) {m : Nat} (hacc : p.acc = Fin.ofNat 26 m) {b : Byte}
    (hb : isDigit b = true) : charStep b p = { p with acc := Fin.ofNat 26 (10 * m + digitValue b) } := by
  have hval : Fin.ofNat 26 (10 * p.acc.val + digitValue b) = Fin.ofNat 26 (10 * m + digitValue b) := by
    rw [hacc, Fin.ext_iff, Fin.val_ofNat, Fin.val_ofNat, Fin.val_ofNat]
    omega
  simp only [charStep, hp, hb, hval, if_true]

/-- R90: in MNUM the digits are read on modulo 26. -/
theorem parseChars_mnum_digits {d : List Byte} (hd : Spec.AllDigits d) {p : Parser} (hp : p.ps = .mnum) {m : Nat}
    (hacc : p.acc = Fin.ofNat 26 m) :
    parseChars d p = { p with acc := Fin.ofNat 26 (d.foldl (fun m b => 10 * m + digitValue b) m) } := by
  induction d generalizing p m with
  | nil => rw [parseChars_nil, List.foldl_nil, ← hacc]
  | cons b d ih =>
    obtain ⟨hb, hd⟩ := allDigits_cons_iff.mp hd
    rw [parseChars_cons, charStep_mnum_digit hp hacc hb]
    exact ih hd (p := { p with acc := Fin.ofNat 26 (10 * m + digitValue b) }) hp rfl

/-- R90: a digit sequence after MC leaves its value modulo 26 and no sign. -/
theorem parseChars_mc_digits {d : List Byte} (hne : d ≠ []) (hd : Spec.AllDigits d) {p : Parser} (hp : p.ps = .mc) :
    parseChars d p = { p with ps := .mnum, neg := false, acc := Fin.ofNat 26 (Spec.decimalValue d) } := by
  obtain ⟨b, d, rfl⟩ := List.exists_cons_of_ne_nil hne
  have hminus : b ≠ 0x2D#8 := head_ne_minusSign hd
  obtain ⟨hb, hrest⟩ := allDigits_cons_iff.mp hd
  have hstep : charStep b p = { p with ps := .mnum, neg := false, acc := Fin.ofNat 26 (digitValue b) } := by
    simp [charStep, hp, hb, hminus]
  rw [parseChars_cons, hstep, parseChars_mnum_digits hrest rfl rfl, ← magnitude_eq_decimalValue, magnitude,
    List.foldl_cons, Nat.mul_zero, Nat.zero_add]

/-- R90: so it does after `-`, which sets the sign. -/
theorem parseChars_mc_minus {d : List Byte} (hne : d ≠ []) (hd : Spec.AllDigits d) {p : Parser} (hp : p.ps = .mc) :
    parseChars (minusSign :: d) p =
      { p with ps := .mnum, neg := true, acc := Fin.ofNat 26 (Spec.decimalValue d) } := by
  obtain ⟨b, d, rfl⟩ := List.exists_cons_of_ne_nil hne
  obtain ⟨hb, hrest⟩ := allDigits_cons_iff.mp hd
  have hstep : charStep b (charStep minusSign p) =
      { p with ps := .mnum, neg := true, acc := Fin.ofNat 26 (digitValue b) } := by
    simp [charStep, hp, hb]
  rw [parseChars_cons, parseChars_cons, hstep, parseChars_mnum_digits hrest rfl rfl, ← magnitude_eq_decimalValue,
    magnitude, List.foldl_cons, Nat.mul_zero, Nat.zero_add]

/-- R92: the rotation at the end of the line is the residue of the signed value. -/
theorem eolResidue_eq {p : Parser} {m : Nat} (hacc : p.acc = Fin.ofNat 26 m) :
    ((eolResidue p).val : Int) = (if p.neg then -(m : Int) else m) % 26 := by
  unfold eolResidue
  split
  · rw [hacc, Fin.val_ofNat, Fin.val_ofNat]
    omega
  · rw [hacc, Fin.val_ofNat]
    omega

theorem eolFrame_parseChars_mnum_of_not_digits {l : Line} (hl : ¬ Spec.AllDigits l) {p : Parser}
    (hp : p.ps = .mnum) : eolFrame (parseChars l p) = .malformed .nonNumeric := by
  induction l generalizing p with
  | nil => exact absurd (allDigits_iff.mpr (by simp)) hl
  | cons b l ih =>
    rw [parseChars_cons]
    by_cases hb : isDigit b = true
    · have hstep : (charStep b p).ps = .mnum := by simp [charStep, hp, hb]
      exact ih (fun h => hl (allDigits_cons_iff.mpr ⟨hb, h⟩)) hstep
    · have hstep : (charStep b p).ps = .badN := by simp [charStep, hp, hb]
      exact eolFrame_parseChars_badN hstep l

/-- R90: one character of a payload, where a digit goes to MNUM and what is none to BAD_N. -/
theorem eolFrame_parseChars_of_not_digits {b : Byte} {l : Line} (hl : ¬ Spec.AllDigits (b :: l)) {p : Parser}
    (hdigit : isDigit b = true → (charStep b p).ps = .mnum)
    (hother : isDigit b = false → (charStep b p).ps = .badN) :
    eolFrame (parseChars (b :: l) p) = .malformed .nonNumeric := by
  rw [parseChars_cons]
  cases hb : isDigit b with
  | true => exact eolFrame_parseChars_mnum_of_not_digits (fun h => hl (allDigits_cons_iff.mpr ⟨hb, h⟩)) (hdigit hb)
  | false => exact eolFrame_parseChars_badN (hother hb) l

/-- R90: a payload that is no numeral leaves the digits at some character, or has none after its `-`. -/
theorem eolFrame_parseChars_nonNumeric {l : Line} (hne : l ≠ []) (hl : ¬ Numeral l) {p : Parser} (hp : p.ps = .mc) :
    eolFrame (parseChars l p) = .malformed .nonNumeric := by
  obtain ⟨b, l, rfl⟩ := List.exists_cons_of_ne_nil hne
  by_cases hb : b = minusSign
  · subst hb
    have hstep : (charStep minusSign p).ps = .mneg := by simp [charStep, hp]
    cases l with
    | nil => simp [eolFrame, hstep]
    | cons c l =>
      exact eolFrame_parseChars_of_not_digits (fun h => hl ⟨c :: l, by simp, h, .inr rfl⟩)
        (fun hc => by simp [charStep, hp, hc]) (fun hc => by simp [charStep, hp, hc])
  · exact eolFrame_parseChars_of_not_digits (fun h => hl ⟨b :: l, by simp, h, .inl rfl⟩)
      (fun hdigit => by simp [charStep, hp, hb, hdigit]) (fun hdigit => by simp [charStep, hp, hb, hdigit])

/-! ### Agreement with the decoder -/

theorem eolFrame_mnum {p : Parser} (hp : p.ps = .mnum) : eolFrame p = .remap ((eolResidue p).val : Int) := by
  simp [eolFrame, hp]

/-- R94: from START the parser reaches the frame of the line's form, a delta reduced modulo 26. -/
theorem eolFrame_parseChars_of_lineForm {l : Line} {i : Instr} (h : LineForm l i) {p : Parser} (hp : p.ps = .start) :
    eolFrame (parseChars l p) = Spec.residual i := by
  cases h with
  | data c => simp [charStep, hp, eolFrame, Spec.residual]
  | dataSpace => simp [charStep, hp, eolFrame, Spec.residual]
  | remap hne hd =>
    rw [parseChars_prefixRemap hp, parseChars_mc_digits hne hd rfl, eolFrame_mnum rfl, eolResidue_eq rfl]
    rfl
  | remapNeg hne hd =>
    rw [parseChars_prefixRemap hp, parseChars_mc_minus hne hd rfl, eolFrame_mnum rfl, eolResidue_eq rfl]
    rfl
  | endFrame => simp [charStep, hp, eolFrame, Spec.residual]
  | unrecognized hdata hremap hend => exact eolFrame_parseChars_unrecognized hp hdata hremap hend
  | missingData => simp [charStep, hp, eolFrame, Spec.residual]
  | missingRemap => simp [charStep, hp, eolFrame, Spec.residual]
  | badData hlen hspace =>
    rw [parseChars_prefixData hp]
    exact eolFrame_parseChars_badData rfl hlen hspace
  | nonNumeric hne hl =>
    rw [parseChars_prefixRemap hp]
    exact eolFrame_parseChars_nonNumeric hne hl rfl

/-- Settles O53: both answer by the form of the line. -/
theorem serialParserAgreesWithDecoder : Obligations.SerialParserAgreesWithDecoder :=
  fun l _ hp => eolFrame_parseChars_of_lineForm (lineForm_decode l) hp

/-- Settles O55: the registers after the digits, for each sign, and the rotor's independence of whole turns. -/
theorem serialResidueEqualsDelta : Obligations.SerialResidueEqualsDelta := by
  intro p d hp hne hd
  have hpos : parseChars (prefixRemap ++ d) p = _ :=
    (parseChars_prefixRemap hp d).trans (parseChars_mc_digits hne hd rfl)
  have hneg : parseChars (prefixRemap ++ minusSign :: d) p = _ :=
    (parseChars_prefixRemap hp _).trans (parseChars_mc_minus hne hd rfl)
  refine ⟨?_, ?_, rotate_emod _⟩
  · exact (congrArg (fun q => ((eolResidue q).val : Int)) hpos).trans (eolResidue_eq rfl)
  · exact (congrArg (fun q => ((eolResidue q).val : Int)) hneg).trans (eolResidue_eq rfl)

/-! ### The byte-serial machine -/

/-- Settles O57: the event sets the parser's registers and nothing else. -/
theorem characterTouchesParserOnly : Obligations.CharacterTouchesParserOnly :=
  fun _ b hrun => serialStep_running hrun (.char b)

/-- Settles O56: `NoData` leaves the parser, so it is the loop's empty poll; the two stops follow the parser's reset. -/
theorem partialLineIsDropped : Obligations.PartialLineIsDropped := by
  intro s hrun
  have hpoll : serialStep .noData s = .next (onNoData s) := serialStep_running hrun .noData
  refine ⟨fun h => ?_, fun limit h hidle => ?_, fun limit h hidle => ?_, serialStep_running hrun .exhausted,
    (serialStep_running hrun .failure).trans (congrArg Host.Outcome.next (onFailure_eq _))⟩
  · rw [hpoll, onNoData_of_no_limit h]
    rfl
  · rw [hpoll, onNoData_below h hidle]
    rfl
  · rw [hpoll, onNoData_at_limit h hidle]
    rfl

theorem runSerial_cons {s : State} (hrun : s.run = .running) (e : InEv) (es : List InEv) :
    runSerial (e :: es) s = runSerial es (serialResult e s) := by
  simp [runSerial, hrun, serialStep_running hrun]

/-- R88: the characters of a line move the parser and leave the machine RUNNING. -/
theorem runSerial_chars {s : State} (hrun : s.run = .running) (l : Line) (es : List InEv) :
    runSerial (l.map InEv.char ++ es) s = runSerial es (setParser (parseChars l s.parser) s) := by
  induction l generalizing s with
  | nil => rfl
  | cons b l ih =>
    rw [List.map_cons, List.cons_append, runSerial_cons hrun, ih (s := serialResult (.char b) s) hrun]
    rfl

/-- R93: a line's events are its characters, then its frame's meaning with the parser back at START. -/
theorem runSerial_line {s : State} (hrun : s.run = .running) (l : Line) :
    runSerial (eventsOf (.line l)) s = .next (execResult (eolFrame (parseChars l s.parser))
      (clearIdle (setParser { parseChars l s.parser with ps := .start } s))) := by
  rw [eventsOf, runSerial_chars hrun, runSerial_cons (by exact hrun)]
  rfl

/-- R64, R94: the residue of a delta turns the rotor as the delta does. -/
theorem execResult_residual (i : Instr) (s : State) : execResult (Spec.residual i) s = execResult i s := by
  cases i with
  | remap delta => exact rotate_emod delta s
  | _ => rfl

/-- No meaning reads or writes the parser's registers. -/
theorem execResult_setParser (i : Instr) (p : Parser) (s : State) :
    execResult i (setParser p s) = setParser p (execResult i s) := by
  cases i <;> rfl

theorem onNoData_setParser (p : Parser) (s : State) : onNoData (setParser p s) = setParser p (onNoData s) := by
  rw [onNoData_eq, onNoData_eq, setParser_emptyPollLimit, setParser_idle]
  split <;> rfl

/-- R94: a response's events lead where the response does, but for the parser, which is back at START. -/
theorem runSerial_eventsOf {s : State} (hrun : s.run = .running) (hstart : s.parser.ps = .start) (r : Resp) :
    ∃ p : Parser, p.ps = .start ∧ runSerial (eventsOf r) s = .next (setParser p (respondResult r s)) := by
  cases r with
  | line l =>
    refine ⟨{ parseChars l s.parser with ps := .start }, rfl, ?_⟩
    rw [runSerial_line hrun, eolFrame_parseChars_of_lineForm (lineForm_decode l) hstart, execResult_residual,
      respondResult_line, ← execResult_setParser]
    rfl
  | noData =>
    refine ⟨s.parser, hstart, ?_⟩
    rw [eventsOf, runSerial_cons hrun, respondResult_noData, ← onNoData_setParser]
    rfl
  | exhausted => exact ⟨{ s.parser with ps := .start }, rfl, runSerial_cons hrun _ _⟩
  | failure => exact ⟨{ s.parser with ps := .start }, rfl, runSerial_cons hrun _ _⟩

/-- Settles O54: the two runs end in states that differ in the parser's registers only. -/
theorem serialRunRefinesLineStep : Obligations.SerialRunRefinesLineStep := by
  intro s r hrun hstart
  obtain ⟨p, hp, h⟩ := runSerial_eventsOf hrun hstart r
  exact ⟨_, _, h, respond_eq r s, rfl, rfl, hp⟩

end Sys2Proof.Machine
end

section
/-! PROOF. The platform (R34, R95, R102): several conditions at once, the step under a finite capacity, a port cycle. -/

namespace Sys2Proof.Machine

/-- Settles O58: the conditions are tested in the order of R102. -/
theorem simultaneousConditionsPriority : Obligations.SimultaneousConditionsPriority := by
  intro failure exhausted noData line
  refine ⟨fun hf => ?_, fun hf he => ?_, fun hf he l hl => ?_, fun hf he hl => ?_⟩
  · simp [arbitrate, hf]
  · simp [arbitrate, hf, he]
  · simp [arbitrate, hf, he, hl]
  · simp [arbitrate, hf, he, hl]

/-- Under a capacity a step that meets no appending line at a full buffer of a RUNNING machine is `step`. -/
theorem stepWithCapacity_eq_step {cap : Option Nat} {s : State}
    (h : s.run = .running → bufferFull cap s = true → respAppends (takeResponse s).1 = false) :
    stepWithCapacity cap s = step s := by
  rw [stepWithCapacity_eq, if_neg]
  rintro ⟨hrun, hfull, happends⟩
  simp [h hrun hfull] at happends

theorem bufferFull_some {n : Nat} {s : State} : bufferFull (some n) s = true ↔ n ≤ Memory.len s.buf := by
  simp [bufferFull]

/-- A response that appends is a line of DATA or DATA.SPACE. -/
theorem respAppends_eq_false {r : Resp}
    (h : ∀ l, r = .line l → (∀ c, decode l ≠ .data c) ∧ decode l ≠ .dataSpace) : respAppends r = false := by
  cases r with
  | line l =>
    obtain ⟨hdata, hspace⟩ := h l rfl
    rw [← Bool.not_eq_true, respAppends_line]
    rintro (⟨c, hc⟩ | hc)
    · exact hdata c hc
    · exact hspace hc
  | noData => rfl
  | exhausted => rfl
  | failure => rfl

/-- Settles O59: the one refusal, and for each other case which of its three conditions fails. -/
theorem fullBufferRefusesData : Obligations.FullBufferRefusesData := by
  refine ⟨fun s => stepWithCapacity_eq_step fun _ hfull => ?_, fun s n l hrun hr hl hlen => ?_,
    fun s n _ hr => stepWithCapacity_eq_step fun _ _ => respAppends_eq_false hr,
    fun s n hlen => stepWithCapacity_eq_step fun _ hfull => ?_,
    fun s cap hstop => stepWithCapacity_eq_step fun hrun => ?_⟩
  · simp [bufferFull] at hfull
  · rw [stepWithCapacity_eq, hr, if_pos ⟨hrun, bufferFull_some.mpr hlen, (respAppends_line l).mpr hl⟩]
  · exact absurd (bufferFull_some.mp hfull) (Nat.not_le.mpr hlen)
  · simp [hstop] at hrun

/-- Settles O60: a reset cycle by the limit the ports ask for, any other by whether it takes the event of its kind. -/
theorem portCycleTakesOneEvent : Obligations.PortCycleTakesOneEvent := by
  refine ⟨fun p s hrst hen => ?_, fun p s limit hrst hen hlimit => ?_, fun p s hrst hen hlimit => ?_,
    fun p s hrst hidle => cycle_hold hrst ?_, fun p s hrst hvalid hrun => ?_⟩
  · simp [cycle_reset hrst, resetCycle, portLimit, hen]
  · simp [cycle_reset hrst, resetCycle, portLimit, hen, hlimit]
  · simp [cycle_reset hrst, resetCycle, portLimit, hen, hlimit]
  · obtain h | h := hidle
    · rw [h, Bool.false_and]
    · simp [inReady, h]
  · have htake : ∀ e, inEvent p.inKind p.inByte = .ok e → cycle p s = serialStep e s :=
      fun _ => cycle_event hrst hvalid hrun
    exact ⟨fun h => htake _ (by rw [h]; rfl), fun h => htake _ (by rw [h]; rfl), fun h => htake _ (by rw [h]; rfl),
      fun h => htake _ (by rw [h]; rfl), fun h => htake _ (by rw [h]; rfl)⟩

end Sys2Proof.Machine
end
